-- ==== Sys2Proof/Word.lean ====
section
/-! DEFINITION. The widths the block works in, and the plain names the spec gives to its states,
its violation labels, its main-loop operations and the three rumble commands. -/

namespace Sys2Proof

/-- A protocol word: 32 bits, unsigned (R6 `W_DATA`, R10, R70). -/
abbrev Word := BitVec 32

/-- Half a protocol word, a key, or the serial control register: 16 bits (R6 `W_CTRL`, R10). -/
abbrev Half := BitVec 16

/-- The eight values of `PSTATE` (R21), `Handshake(0..3)`, `Magic(1..3)` and `SendData`. There is no
`Magic(0)` and no `Handshake(4)`. -/
inductive PState where
  /-- `Handshake(0)` -/
  | hs0
  /-- `Handshake(1)` -/
  | hs1
  /-- `Handshake(2)` -/
  | hs2
  /-- `Handshake(3)` -/
  | hs3
  /-- `Magic(1)` -/
  | mg1
  /-- `Magic(2)` -/
  | mg2
  /-- `Magic(3)` -/
  | mg3
  /-- `SendData` -/
  | sendData
deriving DecidableEq, Repr

/-- The labels of a protocol violation (R167). They name entries of the model's event log; no
hardware register holds one (D14). -/
inductive ViolationClass where
  /-- wrong key in a handshake state -/
  | vKey
  /-- wrong word in a magic state -/
  | vMagic
  /-- wrong word in the steady state -/
  | vPoll
deriving DecidableEq, Repr

/-- The four operations of the agent `HOST` (R9, R135). -/
inductive HostOp where
  | setStart
  | setStop
  | setHardStop
  | update
deriving DecidableEq, Repr

/-- The three rumble commands (R26, R75). -/
inductive Command where
  | stop
  | hardStop
  | start
deriving DecidableEq, Repr

end Sys2Proof
end

