-- ==== Sys2Proof/Machine/Operands.lean ====
section
/-! DEFINITION. The operand forms of the protocol: halves of a word, the 16-bit complement, zero
extension, joining two halves (R10, R11), the replies built from them (R79), and the code and
successor of `PSTATE` (R22, R24). -/

namespace Sys2Proof

/-- `low16`, bits 15:0 of a word (R10). -/
def low16 (w : Word) : Half := w.extractLsb' 0 16

/-- `high16`, bits 31:16 of a word (R10). -/
def high16 (w : Word) : Half := w.extractLsb' 16 16

/-- `NOT16(k) = k XOR 0xFFFF` (R11). -/
def not16 (k : Half) : Half := k ^^^ 0xFFFF#16

/-- `zext_32` of a 16-bit value (R11). -/
def zext32 (v : Half) : Word := v.setWidth 32

/-- `hi ++ lo`, as R11 defines it: `(zext_32(hi) << 16) | zext_32(lo)`. -/
def joinHalves (hi lo : Half) : Word := (zext32 hi <<< 16) ||| zext32 lo

/-- The reply of `HSi_ACK`, i < 3: the received `high16` moved to the low half, the next key in the
high half (R79). -/
def ackReply (w : Word) (nextKey : Half) : Word := zext32 (high16 w) ||| (zext32 nextKey <<< 16)

/-- The reply of `HSi_NAK`: the complement of the key in the low half, the same key in the high half
(R79). -/
def nakReply (k : Half) : Word := zext32 (not16 k) ||| (zext32 k <<< 16)

/-- The 3-bit code of `PSTATE` (R24). -/
def pstateCode : PState → BitVec 3
  | .hs0 => 0
  | .hs1 => 1
  | .hs2 => 2
  | .hs3 => 3
  | .mg1 => 4
  | .mg2 => 5
  | .mg3 => 6
  | .sendData => 7

/-- The state a 3-bit code stands for (R24): every code stands for one. -/
def pstateOfCode (c : BitVec 3) : PState :=
  if c = 0 then .hs0 else if c = 1 then .hs1 else if c = 2 then .hs2 else if c = 3 then .hs3
  else if c = 4 then .mg1 else if c = 5 then .mg2 else if c = 6 then .mg3 else .sendData

/-- The one successor of a state on its advancing row; `SendData` has none (R22). -/
def successor : PState → Option PState
  | .hs0 => some .hs1
  | .hs1 => some .hs2
  | .hs2 => some .hs3
  | .hs3 => some .mg1
  | .mg1 => some .mg2
  | .mg2 => some .mg3
  | .mg3 => some .sendData
  | .sendData => none

end Sys2Proof
end

