-- ==== Sys2Proof/Machine/Constants.lean ====
section
/-! DEFINITION. The constant tables and sentinels of the protocol (R6, R30, R31, R32). They are
parameters the source fixes, immutable, and not state (R36). -/

namespace Sys2Proof

/-- The handshake key table `KEY` (R30). -/
def key : Fin 4 → Half
  | 0 => 0x494E#16
  | 1 => 0x544E#16
  | 2 => 0x4E45#16
  | 3 => 0x4F44#16

/-- The magic value table `MAGIC` (R31): four values, used in three exchanges (conflict C2). -/
def magic : Fin 4 → Word
  | 0 => 0xB0BB8002#32
  | 1 => 0x10000010#32
  | 2 => 0x20000013#32
  | 3 => 0x40000004#32

/-- `SOM`, the start-of-magic sentinel (R32). -/
def som : Word := 0x8000B0BB#32

/-- `POLL`, the steady-state poll sentinel (R32). -/
def poll : Word := 0x30000003#32

/-- `C_STOP` (R6, R75). -/
def cStop : Word := 0x40000004#32

/-- `C_HARDSTOP` (R6, R75). -/
def cHardStop : Word := 0x40000015#32

/-- `C_START` (R6, R75). -/
def cStart : Word := 0x40000026#32

/-- The mask of `START_BIT`, bit 7 of `SIOCNT` (R6). -/
def startMask : Half := 0x0080#16

/-- The fully matching word of handshake step `i`, `NOT16(KEY[i]) ++ KEY[i]` (R71). -/
def fullWord (i : Fin 4) : Word := joinHalves (not16 (key i)) (key i)

/-- The 32-bit word of a rumble command (R26). -/
def commandWord : Command → Word
  | .stop => cStop
  | .hardStop => cHardStop
  | .start => cStart

/-- The word that encodes a `HOST` operation: the value it writes to `CMD`, or the mask `UPDATE` ORs
into `SIOCNT` (R84). -/
def hostWord : HostOp → Word
  | .setStart => cStart
  | .setStop => cStop
  | .setHardStop => cHardStop
  | .update => zext32 startMask

end Sys2Proof
end

