-- ==== Sys2Proof/Machine/Flags.lean ====
section
/-! DEFINITION. The one flag, `START` (R28, R29), and the comparison results the transition rules use,
computed inside one step and stored nowhere (R29). -/

namespace Sys2Proof.Machine

/-- `START`, bit 7 of a value of `SIOCNT` (R28). -/
def startFlag (v : Half) : Bool := v.getLsbD 7

/-- A value of `SIOCNT` with `START` set and the other fifteen bits as they are (R58). -/
def withStart (v : Half) : Half := v ||| startMask

/-- A value of `SIOCNT` with `START` cleared and the other fifteen bits as they are (R146). -/
def withoutStart (v : Half) : Half := v &&& ~~~startMask

/-- `lo == KEY[i] and hi == NOT16(KEY[i])`: the full match of a handshake step (R100). -/
def fullMatch (i : Fin 4) (w : Word) : Bool := low16 w == key i && high16 w == not16 (key i)

/-- `lo == KEY[i] and hi != NOT16(KEY[i])`: the key-only match, which is no violation (R100, R168). -/
def keyOnlyMatch (i : Fin 4) (w : Word) : Bool := low16 w == key i && high16 w != not16 (key i)

/-- `lo != KEY[i]`: the key mismatch (R100). -/
def keyMismatch (i : Fin 4) (w : Word) : Bool := low16 w != key i

/-- `w == MAGIC[j]`: the expected magic value arrived (R120). -/
def magicMatch (j : Fin 4) (w : Word) : Bool := w == magic j

/-- `w != MAGIC[j]` (R120). -/
def magicMismatch (j : Fin 4) (w : Word) : Bool := w != magic j

/-- `w == POLL` (R130). -/
def pollMatch (w : Word) : Bool := w == poll

/-- `w != POLL` (R130). -/
def pollMismatch (w : Word) : Bool := w != poll

end Sys2Proof.Machine
end

