-- ==== Sys2Proof/Config.lean ====
section
/-! DEFINITION. What the source leaves open: the three reset parameters (R7), with the values a
simulator takes (92_eei_decisions.md, reading rules), the two register addresses (R7, R51), and the free
draws of the environment (R213). -/

namespace Sys2Proof

/-- The three open reset parameters (R7, R191): `CMD_RESET`, one of the three commands by its type
(D3, U9); `SIODATA_RESET`, any word (D4); `SIOCNT_ARMED`, any 16-bit value (D5). -/
structure ResetParams where
  cmdReset : Command
  siodataReset : Word
  siocntArmed : Half
deriving DecidableEq, Repr

/-- The parameter values of `State.reset`: `C_STOP`, zero, zero. DESIGN CHOICE, unsafe (log entries 4,
5, 6): the source gives none of the three. -/
def ResetParams.simulator : ResetParams where
  cmdReset := .stop
  siodataReset := 0#32
  siocntArmed := 0#16

/-- The two open address parameters `SIODATA_ADDR` and `SIOCNT_ADDR` (R7, R51, D12): any two distinct
addresses of the register interface. Every operation that is addressed takes them as an argument. -/
structure SerialAddrs where
  siodata : Nat
  siocnt : Nat
  distinct : siodata ≠ siocnt
deriving DecidableEq, Repr

/-- The parameter made of two numbers: the pair itself where they differ, so that every value of the
parameter is one of these. -/
def SerialAddrs.ofPair (a b : Nat) : SerialAddrs where
  siodata := a
  siocnt := if b = a then a + 1 else b
  distinct := by split <;> omega

/-- The address of `SIODATA` on the machine's console, open (D12; log entry 17). Safe: what is proved
holds for every address. -/
opaque Config.siodataAddr : Nat

/-- The number the address of `SIOCNT` is made of, open (D12; log entry 17). Safe. -/
opaque Config.siocntAddr : Nat

/-- The addresses at which the machine's main loop reaches the two serial registers (R51): open. -/
def Config.serialAddrs : SerialAddrs := SerialAddrs.ofPair Config.siodataAddr Config.siocntAddr

/-- Whether draw `n` of the environment is a transfer (if one is armed) rather than a `HOST`
operation: which enabled step is taken next is free (R171, R213 (b); log entry 2). Safe: what is proved
holds whatever the order. -/
opaque Config.freeLink : Nat → Bool

/-- The word a drawn transfer receives, free (R147, R213 (a)). Safe. -/
opaque Config.freeWord : Nat → Word

/-- The two bits that choose which of the four `HOST` operations draw `n` is, free (R213 (b)). Safe. -/
opaque Config.freeHost : Nat → BitVec 2

end Sys2Proof
end

