-- ==== Sys2Proof/Machine/State.lean ====
section
/-! DEFINITION. The state of the machine (R20), the reasons a step can stop, and the state at arming,
which is the model's initial state (R38, R191). -/

namespace Sys2Proof.Machine

/-- The two registers of the block on the register interface (R50). -/
inductive Register where
  | siodata
  | siocnt
deriving DecidableEq, Repr

/-- Where a bare access goes: a private cell, which has a name and no address (R50), or the register
interface, which is reached by address and size (R51, R54). -/
inductive Place where
  | pstate
  | cmd
  | bus (addr bytes : Nat)
deriving DecidableEq, Repr

/-- A bare access a main loop could attempt, none of its operations (R39, R54, R141). -/
structure RegAccess where
  place : Place
  write : Bool
  value : Nat
deriving DecidableEq, Repr

/-- A request to the machine from outside the interrupt context, in the order of R59 (log entry 1). -/
inductive Input where
  /-- `HOST` performs the operation this word encodes (R84) -/
  | host (word : Word)
  /-- `LINK` performs `XFER(word)` (R145, R146) -/
  | link (word : Word)
  /-- `HOST` makes a bare access, which the model refuses (R39, R54, R141, R180) -/
  | hostAccess (acc : RegAccess)
deriving DecidableEq, Repr

/-- An entry of the model's event log: the label of a violation (R167) and, by the model's choice (log
entry 15), the offending word. -/
structure Violation where
  cls : ViolationClass
  word : Word
deriving DecidableEq, Repr

/-- The whole state. The first five fields are the block's own (R20); `txLog` and `violationLog` are
the observations R35 and R167 name, held by no hardware; `inputs` and `draws` are the MODEL's own
fields, which say which agent steps next. -/
structure State where
  /-- `PSTATE`, the protocol state, the block's sequencer position (R21, R22) -/
  pstate : PState
  /-- `SIODATA`, the serial data register, 32 bits (R25) -/
  siodata : Word
  /-- `CMD`, the rumble command register, 32 bits (R26) -/
  cmd : Word
  /-- `SIOCNT`, the serial control register, 16 bits; bit 7 is `START` (R28) -/
  siocnt : Half
  /-- `IRQ_PENDING`, one bit (R33) -/
  irqPending : Bool
  /-- the `TX` log, the words sent on the wire, oldest first: observation (R35) -/
  txLog : List Word
  /-- the event log of protocol violations, oldest first: observation (R12, R167) -/
  violationLog : List Violation
  /-- the requests still to come, oldest first: the model's field (R86; log entry 1) -/
  inputs : List Input
  /-- how many free draws have been made: the model's field (R213; log entry 2) -/
  draws : Nat
deriving DecidableEq, Repr

/-- What stops the machine with a fault: nothing. The block has one exception, the protocol violation,
and it is taken as a next state; no behaviour is treated as a fault (93_implementation_defined.md,
section 1). -/
inductive Fault where
deriving DecidableEq, Repr

/-- Why a step has no meaning. Each but `outsideBlock` is a situation the spec says is not enabled or is to
be refused; each is safe: a run that meets it is no run of the model. -/
inductive Refusal where
  /-- raised by `exec` alone, for an operation with no meaning yet; safe -/
  | notModelled (mnemonic : String)
  /-- raised by an interrupt operation when no interrupt is pending or `PSTATE` and `SIODATA` do not
  select it: it is not enabled (R77, R171, R172); safe -/
  | notSelected
  /-- raised by a `HOST` operation while an interrupt is pending: it is not enabled (R135, R171); safe -/
  | interruptPending
  /-- raised by `XFER` while `START` = 0: it is not enabled (R145, R148); safe -/
  | linkNotArmed
  /-- raised by `XFER` while an interrupt is pending: an overrun, which cannot occur (R174, U7, D18); safe -/
  | overrun
  /-- raised by a main-loop request that is none of the four operations (R39, R141, R180, U4); safe -/
  | hostDiscipline
  /-- raised by an access narrower or wider than its register, or misaligned (R54, U8, D16); safe -/
  | partialAccess
  /-- raised by an access of the register interface that touches neither serial register: another device's,
  outside the block (R5, R51); no rule refuses it, the model does (log entry 18); safe -/
  | outsideBlock
deriving DecidableEq, Repr

/-- The state at arming for given values of the three open parameters (R38, R191). The logs are empty
and no interrupt is pending; nothing has been requested or drawn. -/
def State.armed (p : ResetParams) : State where
  pstate := .hs0
  siodata := p.siodataReset
  cmd := commandWord p.cmdReset
  siocnt := p.siocntArmed
  irqPending := false
  txLog := []
  violationLog := []
  inputs := []
  draws := 0

/-- The machine right after reset: the state at arming with the parameter values a simulator takes. -/
def State.reset : State := State.armed ResetParams.simulator

end Sys2Proof.Machine
end

