-- ==== Sys2Proof/Machine/Ops.lean ====
section
/-! DEFINITION. The named operations over the registers (R12, R55), the entry of the interrupt step,
taking a protocol violation (R166), the enabling conditions of the three agents (R145, R171), and the
register interface by address (R50, R51). Every register access of a meaning goes through here, each of
the register's full width (R53, R54, R203). -/

namespace Sys2Proof.Machine

/-- One step's outcome. -/
abbrev Result := Host.Outcome State Fault Refusal

/-- `MemRead(SIODATA_ADDR, 4)`: no side effect (R55). -/
def readSiodata (s : State) : Word := s.siodata

/-- `MemWrite(SIODATA_ADDR, 4, v)`. -/
def writeSiodata (v : Word) (s : State) : State := { s with siodata := v }

/-- `MemRead(SIOCNT_ADDR, 2)`: no side effect (R55). -/
def readSiocnt (s : State) : Half := s.siocnt

/-- `MemWrite(SIOCNT_ADDR, 2, v)`. -/
def writeSiocnt (v : Half) (s : State) : State := { s with siocnt := v }

/-- `x[PSTATE]`. -/
def readPstate (s : State) : PState := s.pstate

/-- `x[PSTATE] <- p`. -/
def writePstate (p : PState) (s : State) : State := { s with pstate := p }

/-- `x[CMD]`: reading does not change it (R131). -/
def readCmd (s : State) : Word := s.cmd

/-- `x[CMD] <- v`. -/
def writeCmd (v : Word) (s : State) : State := { s with cmd := v }

/-- `x[IRQ_PENDING] <- b`. -/
def writePending (b : Bool) (s : State) : State := { s with irqPending := b }

/-- `emit TX(v)`: appends to the observation log (R12, R35). -/
def emitTx (v : Word) (s : State) : State := { s with txLog := s.txLog ++ [v] }

/-- Appends a violation's label to the model's event log (R12, R167); that the entry keeps the offending
word too is the model's choice (log entry 15). -/
def logViolation (v : Violation) (s : State) : State :=
  { s with violationLog := s.violationLog ++ [v] }

/-- `ARM()`: a 16-bit read of `SIOCNT`, an OR with `0x0080`, a 16-bit write back (R58), one atomic
action (D10). -/
def arm (s : State) : State := writeSiocnt (withStart (readSiocnt s)) s

/-- `REPLY(v)`: the write of `SIODATA`, then `ARM()` (R80, R204). -/
def reply (v : Word) (s : State) : State := arm (writeSiodata v s)

/-- Taking the block's one exception, `raise ProtocolViolation(class)` (R166): `PSTATE` goes to
`Handshake(0)`. Nothing else of the block is written: `SIODATA` keeps the received word, `SIOCNT` and
`CMD` are as they were, nothing is saved. There is no return from it (R169). -/
def protocolViolation (c : ViolationClass) (s : State) : State :=
  logViolation ⟨c, readSiodata s⟩ (writePstate .hs0 s)

/-- Whether a row's operation is the one an interrupt step performs: an interrupt is pending, `PSTATE` is
the row's state, the received word is the one the instruction's fields spell, and the row's own condition
holds of it (R77, R171, R172). -/
def rowEnabled (p : PState) (spelled : Word) (guard : Word → Bool) (s : State) : Bool :=
  s.irqPending && readPstate s == p && readSiodata s == spelled && guard (readSiodata s)

/-- The interrupt step of one row (R172, R60): entry clears `IRQ_PENDING`, `SIODATA` is read once, and
`body` has the row's effect. Where the row is not the one selected it is not the operation this step
performs (R77). The end of the step is the return: it restores nothing, since the step saved nothing
(R172). -/
def interruptStep (p : PState) (spelled : Word) (guard : Word → Bool)
    (body : Word → State → State) (s : State) : Result :=
  if rowEnabled p spelled guard s then .next (body (readSiodata s) (writePending false s))
  else .refused .notSelected

/-- A `HOST` operation: enabled exactly while no interrupt is pending (R135, R171). -/
def hostStep (body : State → State) (s : State) : Result :=
  if s.irqPending then .refused .interruptPending else .next (body s)

/-- A transfer: enabled exactly while `START` = 1 and no interrupt is pending (R145). -/
def linkStep (body : State → State) (s : State) : Result :=
  if s.irqPending then .refused .overrun
  else if startFlag (readSiocnt s) then .next (body s)
  else .refused .linkNotArmed

/-- The width in bytes of a register of the interface (R6, R55). -/
def registerBytes : Register → Nat
  | .siodata => 4
  | .siocnt => 2

/-- The register at an address (R51): the two addresses are distinct, so an address names one at most. -/
def registerAt (m : SerialAddrs) (addr : Nat) : Option Register :=
  if addr = m.siodata then some .siodata
  else if addr = m.siocnt then some .siocnt
  else none

/-- Whether `bytes` bytes from `addr` touch the `width` bytes from `base`. -/
def touches (base width addr bytes : Nat) : Bool :=
  decide (0 < bytes) && decide (addr < base + width) && decide (base < addr + bytes)

/-- The register an access reaches (R51, R54): the whole of one at its own address; an access that is
narrower, wider or misaligned has no meaning. One that touches neither is no access to the block (R51);
that the model refuses it is its choice (log entry 18). -/
def busRegister (m : SerialAddrs) (addr bytes : Nat) : Except Refusal Register :=
  match registerAt m addr with
  | some r => if bytes = registerBytes r then .ok r else .error .partialAccess
  | none =>
    if touches m.siodata (registerBytes .siodata) addr bytes ||
        touches m.siocnt (registerBytes .siocnt) addr bytes then
      .error .partialAccess
    else .error .outsideBlock

/-- The value of a register of the interface; no side effect (R55). -/
def readRegister (r : Register) (s : State) : Nat :=
  match r with
  | .siodata => (readSiodata s).toNat
  | .siocnt => (readSiocnt s).toNat

/-- The write of a register of the interface, of its whole width. -/
def writeRegister (r : Register) (v : Nat) (s : State) : State :=
  match r with
  | .siodata => writeSiodata (BitVec.ofNat 32 v) s
  | .siocnt => writeSiocnt (BitVec.ofNat 16 v) s

/-- `MemRead(addr, bytes)` (R12, R50, R52), for any value of the address parameters. -/
def memRead (m : SerialAddrs) (addr bytes : Nat) (s : State) : Except Refusal Nat :=
  match busRegister m addr bytes with
  | .ok r => .ok (readRegister r s)
  | .error e => .error e

/-- `MemWrite(addr, bytes, v)` (R12, R50, R52), for any value of the address parameters. -/
def memWrite (m : SerialAddrs) (addr bytes v : Nat) (s : State) : Except Refusal State :=
  match busRegister m addr bytes with
  | .ok r => .ok (writeRegister r v s)
  | .error e => .error e

/-- How a bare main-loop access is refused: where it would reach a register or a private cell, as a breach
of the single-writer discipline (R37, R39, R141, R180); otherwise as the interface refuses it. -/
def accessRefusal (m : SerialAddrs) (a : RegAccess) : Refusal :=
  match a.place with
  | .pstate => .hostDiscipline
  | .cmd => .hostDiscipline
  | .bus addr bytes =>
    match busRegister m addr bytes with
    | .ok _ => .hostDiscipline
    | .error e => e

end Sys2Proof.Machine
end

