-- ==== Sys2Proof/Machine/Handshake.lean ====
section
/-! DEFINITION. The twelve handshake operations (40_handshake.md, R100 to R112). -/

namespace Sys2Proof.Machine

/-- `HS0_ACK` (R101): acknowledge key 0 and offer key 1. -/
def execHs0Ack (s : State) : Result :=
  interruptStep .hs0 (fullWord 0) (fullMatch 0)
    (fun w t => reply (ackReply w (key 1)) (writePstate .hs1 t)) s

/-- `HS0_NAK` (R102): the key without its complement; `PSTATE` is not written. No violation (R168). -/
def execHs0Nak (chk : Half) (s : State) : Result :=
  interruptStep .hs0 (joinHalves chk (key 0)) (keyOnlyMatch 0)
    (fun _ t => reply (nakReply (key 0)) t) s

/-- `HS0_RST` (R103): the wrong key, protocol violation `V_KEY`. -/
def execHs0Rst (chk keyf : Half) (s : State) : Result :=
  interruptStep .hs0 (joinHalves chk keyf) (keyMismatch 0)
    (fun _ t => protocolViolation .vKey t) s

/-- `HS1_ACK` (R104): acknowledge key 1 and offer key 2. -/
def execHs1Ack (s : State) : Result :=
  interruptStep .hs1 (fullWord 1) (fullMatch 1)
    (fun w t => reply (ackReply w (key 2)) (writePstate .hs2 t)) s

/-- `HS1_NAK` (R105): the key without its complement; `PSTATE` is not written. No violation (R168). -/
def execHs1Nak (chk : Half) (s : State) : Result :=
  interruptStep .hs1 (joinHalves chk (key 1)) (keyOnlyMatch 1)
    (fun _ t => reply (nakReply (key 1)) t) s

/-- `HS1_RST` (R106): the wrong key, protocol violation `V_KEY`. -/
def execHs1Rst (chk keyf : Half) (s : State) : Result :=
  interruptStep .hs1 (joinHalves chk keyf) (keyMismatch 1)
    (fun _ t => protocolViolation .vKey t) s

/-- `HS2_ACK` (R107): acknowledge key 2 and offer key 3. -/
def execHs2Ack (s : State) : Result :=
  interruptStep .hs2 (fullWord 2) (fullMatch 2)
    (fun w t => reply (ackReply w (key 3)) (writePstate .hs3 t)) s

/-- `HS2_NAK` (R108): the key without its complement; `PSTATE` is not written. No violation (R168). -/
def execHs2Nak (chk : Half) (s : State) : Result :=
  interruptStep .hs2 (joinHalves chk (key 2)) (keyOnlyMatch 2)
    (fun _ t => reply (nakReply (key 2)) t) s

/-- `HS2_RST` (R109): the wrong key, protocol violation `V_KEY`. -/
def execHs2Rst (chk keyf : Half) (s : State) : Result :=
  interruptStep .hs2 (joinHalves chk keyf) (keyMismatch 2)
    (fun _ t => protocolViolation .vKey t) s

/-- `HS3_ACK` (R110): acknowledge key 3 and open the magic exchange with `SOM`. -/
def execHs3Ack (s : State) : Result :=
  interruptStep .hs3 (fullWord 3) (fullMatch 3)
    (fun _ t => reply som (writePstate .mg1 t)) s

/-- `HS3_NAK` (R111): the key without its complement; `PSTATE` is not written. No violation (R168). -/
def execHs3Nak (chk : Half) (s : State) : Result :=
  interruptStep .hs3 (joinHalves chk (key 3)) (keyOnlyMatch 3)
    (fun _ t => reply (nakReply (key 3)) t) s

/-- `HS3_RST` (R112): the wrong key, protocol violation `V_KEY`. -/
def execHs3Rst (chk keyf : Half) (s : State) : Result :=
  interruptStep .hs3 (joinHalves chk keyf) (keyMismatch 3)
    (fun _ t => protocolViolation .vKey t) s

end Sys2Proof.Machine
end

