-- ==== Sys2Proof/Machine/HostOps.lean ====
section
/-! DEFINITION. The four operations of the main loop (43_host_operations.md, R135 to R139). -/

namespace Sys2Proof.Machine

/-- `SET_START` (R136). -/
def execSetStart (s : State) : Result := hostStep (writeCmd cStart) s

/-- `SET_STOP` (R137). -/
def execSetStop (s : State) : Result := hostStep (writeCmd cStop) s

/-- `SET_HARDSTOP` (R138). -/
def execSetHardStop (s : State) : Result := hostStep (writeCmd cHardStop) s

/-- `UPDATE` (R139): `ARM()`, in every protocol state, with no reply written. -/
def execUpdate (s : State) : Result := hostStep arm s

end Sys2Proof.Machine
end

