-- ==== Sys2Proof/Machine/Link.lean ====
section
/-! DEFINITION. The link's transfer step (44_link_transfer.md, R145, R146). -/

namespace Sys2Proof.Machine

/-- The effect of a completed transfer (R146): the content of `SIODATA` is sent, the received word
replaces it, `START` is cleared and the interrupt raised. -/
def completeTransfer (w : Word) (s : State) : State :=
  let sent := emitTx (readSiodata s) s
  let received := writeSiodata w sent
  let unarmed := writeSiocnt (withoutStart (readSiocnt received)) received
  writePending true unarmed

/-- `XFER(w)` (R145, R146), for any word `w` (R147). -/
def execXfer (w : Word) (s : State) : Result := linkStep (completeTransfer w) s

end Sys2Proof.Machine
end

