-- ==== Sys2Proof/Machine/Magic.lean ====
section
/-! DEFINITION. The six operations of the magic exchange (41_magic.md, R120 to R126): the step in
`Magic(i)` expects `MAGIC[i-1]` and replies `MAGIC[i]` (R31). -/

namespace Sys2Proof.Machine

/-- `MG1_OK` (R121): `MAGIC[0]` arrived; answer with `MAGIC[1]`. -/
def execMg1Ok (s : State) : Result :=
  interruptStep .mg1 (magic 0) (magicMatch 0)
    (fun _ t => reply (magic 1) (writePstate .mg2 t)) s

/-- `MG1_RST` (R122): any other word, protocol violation `V_MAGIC`. -/
def execMg1Rst (lit : Word) (s : State) : Result :=
  interruptStep .mg1 lit (magicMismatch 0)
    (fun _ t => protocolViolation .vMagic t) s

/-- `MG2_OK` (R123): `MAGIC[1]` arrived; answer with `MAGIC[2]`. -/
def execMg2Ok (s : State) : Result :=
  interruptStep .mg2 (magic 1) (magicMatch 1)
    (fun _ t => reply (magic 2) (writePstate .mg3 t)) s

/-- `MG2_RST` (R124): any other word, protocol violation `V_MAGIC`. -/
def execMg2Rst (lit : Word) (s : State) : Result :=
  interruptStep .mg2 lit (magicMismatch 1)
    (fun _ t => protocolViolation .vMagic t) s

/-- `MG3_OK` (R125): `MAGIC[2]` arrived; answer with `MAGIC[3]`. -/
def execMg3Ok (s : State) : Result :=
  interruptStep .mg3 (magic 2) (magicMatch 2)
    (fun _ t => reply (magic 3) (writePstate .sendData t)) s

/-- `MG3_RST` (R126): any other word, protocol violation `V_MAGIC`. -/
def execMg3Rst (lit : Word) (s : State) : Result :=
  interruptStep .mg3 lit (magicMismatch 2)
    (fun _ t => protocolViolation .vMagic t) s

end Sys2Proof.Machine
end

