-- ==== Sys2Proof/Machine/SendData.lean ====
section
/-! DEFINITION. The two operations of the steady state (42_senddata.md, R130 to R132). -/

namespace Sys2Proof.Machine

/-- `SD_POLL` (R131): answer the poll with the content of `CMD`, verbatim (D21); `PSTATE` is not
written. -/
def execSdPoll (s : State) : Result :=
  interruptStep .sendData poll pollMatch (fun _ t => reply (readCmd t) t) s

/-- `SD_RST` (R132): any other word, protocol violation `V_POLL`; `CMD` survives. -/
def execSdRst (lit : Word) (s : State) : Result :=
  interruptStep .sendData lit pollMismatch (fun _ t => protocolViolation .vPoll t) s

end Sys2Proof.Machine
end

