-- ==== Sys2Proof/Syntax.lean ====
section
/-! DEFINITION. The operations of the block and of its environment, one constructor per row of
spec/opcode_table.json. An interrupt operation carries the fields of the received word that its row
leaves free (R71, R72); a row that fixes the whole word carries none. -/

namespace Sys2Proof

/-- The 25 operations (R78, R84, R85). -/
inductive Instr where
  /-- `HS0_ACK` (R101): `Handshake(0)`, the fully matching word. -/
  | hs0Ack
  /-- `HS0_NAK` (R102): `Handshake(0)`, the key with another `CHK`. -/
  | hs0Nak (chk : Half)
  /-- `HS0_RST` (R103): `Handshake(0)`, any word whose `KEYF` is not the key. -/
  | hs0Rst (chk keyf : Half)
  /-- `HS1_ACK` (R104). -/
  | hs1Ack
  /-- `HS1_NAK` (R105). -/
  | hs1Nak (chk : Half)
  /-- `HS1_RST` (R106). -/
  | hs1Rst (chk keyf : Half)
  /-- `HS2_ACK` (R107). -/
  | hs2Ack
  /-- `HS2_NAK` (R108). -/
  | hs2Nak (chk : Half)
  /-- `HS2_RST` (R109). -/
  | hs2Rst (chk keyf : Half)
  /-- `HS3_ACK` (R110). -/
  | hs3Ack
  /-- `HS3_NAK` (R111). -/
  | hs3Nak (chk : Half)
  /-- `HS3_RST` (R112). -/
  | hs3Rst (chk keyf : Half)
  /-- `MG1_OK` (R121). -/
  | mg1Ok
  /-- `MG1_RST` (R122): `Magic(1)`, any other literal. -/
  | mg1Rst (lit : Word)
  /-- `MG2_OK` (R123). -/
  | mg2Ok
  /-- `MG2_RST` (R124). -/
  | mg2Rst (lit : Word)
  /-- `MG3_OK` (R125). -/
  | mg3Ok
  /-- `MG3_RST` (R126). -/
  | mg3Rst (lit : Word)
  /-- `SD_POLL` (R131). -/
  | sdPoll
  /-- `SD_RST` (R132): `SendData`, any word but the poll word. -/
  | sdRst (lit : Word)
  /-- `SET_START` (R136). -/
  | setStart
  /-- `SET_STOP` (R137). -/
  | setStop
  /-- `SET_HARDSTOP` (R138). -/
  | setHardStop
  /-- `UPDATE` (R139). -/
  | update
  /-- `XFER(w)` (R145, R146): a transfer that receives `w`. -/
  | xfer (w : Word)
deriving DecidableEq, Repr

end Sys2Proof
end

