-- ==== Sys2Proof/Machine/Dispatch.lean ====
section
/-! DEFINITION. The dispatch from an operation to its meaning, one arm per constructor. -/

namespace Sys2Proof.Machine

def exec (i : Instr) (s : State) : Host.Outcome State Fault Refusal :=
  match i with
  | .hs0Ack => Sys2Proof.Machine.execHs0Ack s
  | .hs0Nak chk => Sys2Proof.Machine.execHs0Nak chk s
  | .hs0Rst chk keyf => Sys2Proof.Machine.execHs0Rst chk keyf s
  | .hs1Ack => Sys2Proof.Machine.execHs1Ack s
  | .hs1Nak chk => Sys2Proof.Machine.execHs1Nak chk s
  | .hs1Rst chk keyf => Sys2Proof.Machine.execHs1Rst chk keyf s
  | .hs2Ack => Sys2Proof.Machine.execHs2Ack s
  | .hs2Nak chk => Sys2Proof.Machine.execHs2Nak chk s
  | .hs2Rst chk keyf => Sys2Proof.Machine.execHs2Rst chk keyf s
  | .hs3Ack => Sys2Proof.Machine.execHs3Ack s
  | .hs3Nak chk => Sys2Proof.Machine.execHs3Nak chk s
  | .hs3Rst chk keyf => Sys2Proof.Machine.execHs3Rst chk keyf s
  | .mg1Ok => Sys2Proof.Machine.execMg1Ok s
  | .mg1Rst lit => Sys2Proof.Machine.execMg1Rst lit s
  | .mg2Ok => Sys2Proof.Machine.execMg2Ok s
  | .mg2Rst lit => Sys2Proof.Machine.execMg2Rst lit s
  | .mg3Ok => Sys2Proof.Machine.execMg3Ok s
  | .mg3Rst lit => Sys2Proof.Machine.execMg3Rst lit s
  | .sdPoll => Sys2Proof.Machine.execSdPoll s
  | .sdRst lit => Sys2Proof.Machine.execSdRst lit s
  | .setStart => Sys2Proof.Machine.execSetStart s
  | .setStop => Sys2Proof.Machine.execSetStop s
  | .setHardStop => Sys2Proof.Machine.execSetHardStop s
  | .update => Sys2Proof.Machine.execUpdate s
  | .xfer w => Sys2Proof.Machine.execXfer w s

end Sys2Proof.Machine
end

