-- ==== Sys2Proof/WellFormed.lean ====
section
/-! DEFINITION. Which field values a row of the decode table admits: a row of lower priority never
holds a word that a row above it takes (R77, R78). -/

namespace Sys2Proof

/-- The condition a row's fields meet when the row is the one selected (R78): a `*_NAK` row's `CHK` is
not the complement of the key, a handshake `*_RST` row's `KEYF` is not the key, any other `*_RST`
row's `LIT` is not the expected word. -/
def Instr.wellFormed : Instr → Bool
  | .hs0Ack => true
  | .hs0Nak chk => chk != not16 (key 0)
  | .hs0Rst _ keyf => keyf != key 0
  | .hs1Ack => true
  | .hs1Nak chk => chk != not16 (key 1)
  | .hs1Rst _ keyf => keyf != key 1
  | .hs2Ack => true
  | .hs2Nak chk => chk != not16 (key 2)
  | .hs2Rst _ keyf => keyf != key 2
  | .hs3Ack => true
  | .hs3Nak chk => chk != not16 (key 3)
  | .hs3Rst _ keyf => keyf != key 3
  | .mg1Ok => true
  | .mg1Rst lit => lit != magic 0
  | .mg2Ok => true
  | .mg2Rst lit => lit != magic 1
  | .mg3Ok => true
  | .mg3Rst lit => lit != magic 2
  | .sdPoll => true
  | .sdRst lit => lit != poll
  | .setStart => true
  | .setStop => true
  | .setHardStop => true
  | .update => true
  | .xfer _ => true

end Sys2Proof
end

