-- ==== Sys2Proof/Decode.lean ====
section
/-! DEFINITION. The decoder of R77 and R78 (by state, then by word), the encoder, and the machine's
copy of the rows of spec/opcode_table.json. -/

namespace Sys2Proof

/-- What an operation's word is decoded against: an interrupt step against `PSTATE` (R77), a `HOST`
request against the four encodings of R84, a transfer against nothing (its operand is free). -/
inductive Slot where
  | irq (p : PState)
  | host
  | link
deriving DecidableEq, Repr

/-- Why a word decodes to nothing. No word of an interrupt step does: R81. -/
inductive DecodeReject where
  /-- a `HOST` request that is none of its four operations (R84, R141) -/
  | notAHostOperation (w : Word)
deriving DecidableEq, Repr

/-- The test of a row: `(w AND mask) == match` (R77). -/
def rowSelects (rowMatch rowMask w : Word) : Bool := (w &&& rowMask) == rowMatch

/-- The operation of an interrupt step in state `p` on word `w`: the rows of R78 in priority order. -/
def decodeIrq (p : PState) (w : Word) : Instr :=
  match p with
  | .hs0 =>
    if rowSelects 0xB6B1494E#32 0xFFFFFFFF#32 w then .hs0Ack
    else if rowSelects 0x0000494E#32 0x0000FFFF#32 w then .hs0Nak (high16 w)
    else .hs0Rst (high16 w) (low16 w)
  | .hs1 =>
    if rowSelects 0xABB1544E#32 0xFFFFFFFF#32 w then .hs1Ack
    else if rowSelects 0x0000544E#32 0x0000FFFF#32 w then .hs1Nak (high16 w)
    else .hs1Rst (high16 w) (low16 w)
  | .hs2 =>
    if rowSelects 0xB1BA4E45#32 0xFFFFFFFF#32 w then .hs2Ack
    else if rowSelects 0x00004E45#32 0x0000FFFF#32 w then .hs2Nak (high16 w)
    else .hs2Rst (high16 w) (low16 w)
  | .hs3 =>
    if rowSelects 0xB0BB4F44#32 0xFFFFFFFF#32 w then .hs3Ack
    else if rowSelects 0x00004F44#32 0x0000FFFF#32 w then .hs3Nak (high16 w)
    else .hs3Rst (high16 w) (low16 w)
  | .mg1 => if rowSelects 0xB0BB8002#32 0xFFFFFFFF#32 w then .mg1Ok else .mg1Rst w
  | .mg2 => if rowSelects 0x10000010#32 0xFFFFFFFF#32 w then .mg2Ok else .mg2Rst w
  | .mg3 => if rowSelects 0x20000013#32 0xFFFFFFFF#32 w then .mg3Ok else .mg3Rst w
  | .sendData => if rowSelects 0x30000003#32 0xFFFFFFFF#32 w then .sdPoll else .sdRst w

/-- The operation a `HOST` request names: the value it writes, or `UPDATE`'s mask (R84). -/
def decodeHost (w : Word) : Except DecodeReject Instr :=
  if w = 0x40000026#32 then .ok .setStart
  else if w = 0x40000004#32 then .ok .setStop
  else if w = 0x40000015#32 then .ok .setHardStop
  else if w = 0x00000080#32 then .ok .update
  else .error (.notAHostOperation w)

/-- The decoder, total: every word of every slot is an operation or is rejected by name. -/
def decode : Slot → Word → Except DecodeReject Instr
  | .irq p, w => .ok (decodeIrq p w)
  | .host, w => decodeHost w
  | .link, w => .ok (.xfer w)

/-- The slot and the word that stand for an operation (R71, R72, R84). -/
def encode : Instr → Slot × Word
  | .hs0Ack => (.irq .hs0, fullWord 0)
  | .hs0Nak chk => (.irq .hs0, joinHalves chk (key 0))
  | .hs0Rst chk keyf => (.irq .hs0, joinHalves chk keyf)
  | .hs1Ack => (.irq .hs1, fullWord 1)
  | .hs1Nak chk => (.irq .hs1, joinHalves chk (key 1))
  | .hs1Rst chk keyf => (.irq .hs1, joinHalves chk keyf)
  | .hs2Ack => (.irq .hs2, fullWord 2)
  | .hs2Nak chk => (.irq .hs2, joinHalves chk (key 2))
  | .hs2Rst chk keyf => (.irq .hs2, joinHalves chk keyf)
  | .hs3Ack => (.irq .hs3, fullWord 3)
  | .hs3Nak chk => (.irq .hs3, joinHalves chk (key 3))
  | .hs3Rst chk keyf => (.irq .hs3, joinHalves chk keyf)
  | .mg1Ok => (.irq .mg1, magic 0)
  | .mg1Rst lit => (.irq .mg1, lit)
  | .mg2Ok => (.irq .mg2, magic 1)
  | .mg2Rst lit => (.irq .mg2, lit)
  | .mg3Ok => (.irq .mg3, magic 2)
  | .mg3Rst lit => (.irq .mg3, lit)
  | .sdPoll => (.irq .sendData, poll)
  | .sdRst lit => (.irq .sendData, lit)
  | .setStart => (.host, hostWord .setStart)
  | .setStop => (.host, hostWord .setStop)
  | .setHardStop => (.host, hostWord .setHardStop)
  | .update => (.host, hostWord .update)
  | .xfer w => (.link, w)

/-- The operation of a `HostOp`. -/
def hostInstr : HostOp → Instr
  | .setStart => .setStart
  | .setStop => .setStop
  | .setHardStop => .setHardStop
  | .update => .update

/-- The eight `*_RST` operations: those that raise a protocol violation (R165). -/
def Instr.isReset : Instr → Bool
  | .hs0Rst _ _ | .hs1Rst _ _ | .hs2Rst _ _ | .hs3Rst _ _ => true
  | .mg1Rst _ | .mg2Rst _ | .mg3Rst _ | .sdRst _ => true
  | .hs0Ack | .hs0Nak _ | .hs1Ack | .hs1Nak _ | .hs2Ack | .hs2Nak _ | .hs3Ack | .hs3Nak _ => false
  | .mg1Ok | .mg2Ok | .mg3Ok | .sdPoll => false
  | .setStart | .setStop | .setHardStop | .update | .xfer _ => false

/-- The twelve operations of an interrupt step that reply: `*_ACK`, `*_NAK`, `*_OK` and `SD_POLL`
(R29, R79). -/
def Instr.isReplying : Instr → Bool
  | .hs0Ack | .hs0Nak _ | .hs1Ack | .hs1Nak _ | .hs2Ack | .hs2Nak _ | .hs3Ack | .hs3Nak _ => true
  | .mg1Ok | .mg2Ok | .mg3Ok | .sdPoll => true
  | .hs0Rst _ _ | .hs1Rst _ _ | .hs2Rst _ _ | .hs3Rst _ _ => false
  | .mg1Rst _ | .mg2Rst _ | .mg3Rst _ | .sdRst _ => false
  | .setStart | .setStop | .setHardStop | .update | .xfer _ => false

/-- The mnemonic of an operation (R85). -/
def Instr.mnemonic : Instr → String
  | .hs0Ack => "HS0_ACK"
  | .hs0Nak _ => "HS0_NAK"
  | .hs0Rst _ _ => "HS0_RST"
  | .hs1Ack => "HS1_ACK"
  | .hs1Nak _ => "HS1_NAK"
  | .hs1Rst _ _ => "HS1_RST"
  | .hs2Ack => "HS2_ACK"
  | .hs2Nak _ => "HS2_NAK"
  | .hs2Rst _ _ => "HS2_RST"
  | .hs3Ack => "HS3_ACK"
  | .hs3Nak _ => "HS3_NAK"
  | .hs3Rst _ _ => "HS3_RST"
  | .mg1Ok => "MG1_OK"
  | .mg1Rst _ => "MG1_RST"
  | .mg2Ok => "MG2_OK"
  | .mg2Rst _ => "MG2_RST"
  | .mg3Ok => "MG3_OK"
  | .mg3Rst _ => "MG3_RST"
  | .sdPoll => "SD_POLL"
  | .sdRst _ => "SD_RST"
  | .setStart => "SET_START"
  | .setStop => "SET_STOP"
  | .setHardStop => "SET_HARDSTOP"
  | .update => "UPDATE"
  | .xfer _ => "XFER"

/-- What a row of the table replies (R87): a literal, the content of `CMD`, or nothing. -/
inductive RowReply where
  | lit (w : Word)
  | cmd
  | noReply
deriving DecidableEq, Repr

/-- The word a row's reply column stands for when `CMD` holds `c`. -/
def replyWord (r : RowReply) (c : Word) : Option Word :=
  match r with
  | .lit w => some w
  | .cmd => some c
  | .noReply => none

/-- A decode row of spec/opcode_table.json with the columns R87 names. -/
structure DecodeRow where
  mnemonic : String
  state : PState
  prio : Nat
  rowMatch : Word
  rowMask : Word
  next : PState
  reply : RowReply
  arm : Bool
  violation : Option ViolationClass
deriving DecidableEq, Repr

/-- The handshake rows of the table. -/
def handshakeRows : List DecodeRow :=
  [ ⟨"HS0_ACK", .hs0, 1, 0xB6B1494E#32, 0xFFFFFFFF#32, .hs1, .lit 0x544EB6B1#32, true, none⟩,
    ⟨"HS0_NAK", .hs0, 2, 0x0000494E#32, 0x0000FFFF#32, .hs0, .lit 0x494EB6B1#32, true, none⟩,
    ⟨"HS0_RST", .hs0, 3, 0x00000000#32, 0x00000000#32, .hs0, .noReply, false, some .vKey⟩,
    ⟨"HS1_ACK", .hs1, 1, 0xABB1544E#32, 0xFFFFFFFF#32, .hs2, .lit 0x4E45ABB1#32, true, none⟩,
    ⟨"HS1_NAK", .hs1, 2, 0x0000544E#32, 0x0000FFFF#32, .hs1, .lit 0x544EABB1#32, true, none⟩,
    ⟨"HS1_RST", .hs1, 3, 0x00000000#32, 0x00000000#32, .hs0, .noReply, false, some .vKey⟩,
    ⟨"HS2_ACK", .hs2, 1, 0xB1BA4E45#32, 0xFFFFFFFF#32, .hs3, .lit 0x4F44B1BA#32, true, none⟩,
    ⟨"HS2_NAK", .hs2, 2, 0x00004E45#32, 0x0000FFFF#32, .hs2, .lit 0x4E45B1BA#32, true, none⟩,
    ⟨"HS2_RST", .hs2, 3, 0x00000000#32, 0x00000000#32, .hs0, .noReply, false, some .vKey⟩,
    ⟨"HS3_ACK", .hs3, 1, 0xB0BB4F44#32, 0xFFFFFFFF#32, .mg1, .lit 0x8000B0BB#32, true, none⟩,
    ⟨"HS3_NAK", .hs3, 2, 0x00004F44#32, 0x0000FFFF#32, .hs3, .lit 0x4F44B0BB#32, true, none⟩,
    ⟨"HS3_RST", .hs3, 3, 0x00000000#32, 0x00000000#32, .hs0, .noReply, false, some .vKey⟩ ]

/-- The literal-word rows of the table: magic exchange and steady state. -/
def literalRows : List DecodeRow :=
  [ ⟨"MG1_OK", .mg1, 1, 0xB0BB8002#32, 0xFFFFFFFF#32, .mg2, .lit 0x10000010#32, true, none⟩,
    ⟨"MG1_RST", .mg1, 2, 0x00000000#32, 0x00000000#32, .hs0, .noReply, false, some .vMagic⟩,
    ⟨"MG2_OK", .mg2, 1, 0x10000010#32, 0xFFFFFFFF#32, .mg3, .lit 0x20000013#32, true, none⟩,
    ⟨"MG2_RST", .mg2, 2, 0x00000000#32, 0x00000000#32, .hs0, .noReply, false, some .vMagic⟩,
    ⟨"MG3_OK", .mg3, 1, 0x20000013#32, 0xFFFFFFFF#32, .sendData, .lit 0x40000004#32, true, none⟩,
    ⟨"MG3_RST", .mg3, 2, 0x00000000#32, 0x00000000#32, .hs0, .noReply, false, some .vMagic⟩,
    ⟨"SD_POLL", .sendData, 1, 0x30000003#32, 0xFFFFFFFF#32, .sendData, .cmd, true, none⟩,
    ⟨"SD_RST", .sendData, 2, 0x00000000#32, 0x00000000#32, .hs0, .noReply, false, some .vPoll⟩ ]

/-- The 20 decode rows (R78, R87), in the table's order. -/
def decodeRows : List DecodeRow := handshakeRows ++ literalRows

/-- Row `r` is the one selected in state `p` by word `w`: its state is `p`, its test holds, and no row
of `p` with a lower priority number has a test that holds (R77, R87). -/
def DecodeRow.selectedBy (r : DecodeRow) (p : PState) (w : Word) : Bool :=
  r.state == p && rowSelects r.rowMatch r.rowMask w &&
    decodeRows.all fun q => !(q.state == p && rowSelects q.rowMatch q.rowMask w && q.prio < r.prio)

/-- The eight states, in the order of their codes. -/
def allPStates : List PState := [.hs0, .hs1, .hs2, .hs3, .mg1, .mg2, .mg3, .sendData]

/-- The slot in which a table row NAMES the word: the state with a row of mask other than 0 that takes
it, else `HOST` if the word is one of R84's, else `Handshake(0)`, the state of the machine after reset
(log entry 22). -/
def tableSlot (w : Word) : Slot :=
  match allPStates.find? (fun p => !(decodeIrq p w).isReset) with
  | some p => .irq p
  | none =>
    match decodeHost w with
    | .ok _ => .host
    | .error _ => .irq .hs0

/-- The instruction the decoder reads from a table row's bits. A protocol word is 32 bits (R70), so a
number that does not fit is refused; the bits above `nbits` are 0. -/
def decodeTableWord (_nbits w : Nat) : Option Instr :=
  if w < 2 ^ 32 then
    match decode (tableSlot (BitVec.ofNat 32 w)) (BitVec.ofNat 32 w) with
    | .ok i => some i
    | .error _ => none
  else none

end Sys2Proof
end

