-- ==== Sys2Proof/Machine/Fetch.lean ====
section
/-! DEFINITION. Which agent steps next (R171) and the word its step decodes: the received word in
`SIODATA` while an interrupt is pending, else the next request, else a free draw (R213). -/

namespace Sys2Proof.Machine

/-- What the machine found to do. -/
inductive Fetched where
  /-- decode this word against this slot, in this state (the request already taken) -/
  | word (slot : Slot) (w : Word) (s : State)
  /-- the request has no meaning -/
  | stop (r : Refusal)
deriving DecidableEq, Repr

/-- The `HOST` operation a draw of two bits stands for (R213 (b)). -/
def drawnHostOp (b : BitVec 2) : HostOp :=
  if b = 0 then .setStart else if b = 1 then .setStop else if b = 2 then .setHardStop else .update

/-- A free draw among the enabled steps (R171, R213): a transfer of a free word if the draw says so and
one is armed, otherwise one of the four `HOST` operations. -/
def fetchDraw (s : State) : Fetched :=
  let t := { s with draws := s.draws + 1 }
  if Config.freeLink s.draws && startFlag (readSiocnt s) then .word .link (Config.freeWord s.draws) t
  else .word .host (hostWord (drawnHostOp (Config.freeHost s.draws))) t

/-- What a request asks for, once it is taken from the list. -/
def fetchInput (i : Input) (t : State) : Fetched :=
  match i with
  | .host w => .word .host w t
  | .link w => .word .link w t
  | .hostAccess a => .stop (accessRefusal Config.serialAddrs a)

/-- The dispatch between the agents (R171): while an interrupt is pending nothing but the interrupt step
is enabled; otherwise the next request is taken, and where there is none the environment is free. -/
def fetch (s : State) : Fetched :=
  if s.irqPending then .word (.irq (readPstate s)) (readSiodata s) s
  else
    match s.inputs with
    | [] => fetchDraw s
    | i :: rest => fetchInput i { s with inputs := rest }

/-- The refusal of a word that decodes to nothing (R141). -/
def rejectRefusal : DecodeReject → Refusal
  | .notAHostOperation _ => .hostDiscipline

/-- The state in which the next step decodes word `w` against `slot`: an interrupt slot needs the
protocol state, the received word and the pending interrupt; a request needs its place at the head of the
list, with no interrupt before it; a transfer also needs the link armed. -/
def placeWord (slot : Slot) (w : Word) (s : State) : State :=
  match slot with
  | .irq p => { s with pstate := p, siodata := w, irqPending := true }
  | .host => { s with irqPending := false, inputs := .host w :: s.inputs }
  | .link => { arm s with irqPending := false, inputs := .link w :: s.inputs }

end Sys2Proof.Machine
end

