-- ==== Sys2Proof/Machine/Step.lean ====
section
/-! DEFINITION. One step of the machine: find what the next agent does, decode it, perform it. -/

namespace Sys2Proof.Machine

/-- One step (R59, R171). -/
def step (s : State) : Host.Outcome State Fault Refusal :=
  match fetch s with
  | .stop r => .refused r
  | .word slot w t =>
    match decode slot w with
    | .ok i => exec i t
    | .error e => .refused (rejectRefusal e)

/-- `s` with the table word `w` placed where the next step finds it: in `SIODATA` with an interrupt
pending and `PSTATE` at the row's state, or at the head of the requests (log entry 22). -/
def State.withFetchWord (s : State) (_nbits w : Nat) : State :=
  placeWord (tableSlot (BitVec.ofNat 32 w)) (BitVec.ofNat 32 w) s

end Sys2Proof.Machine
end

