-- ==== Sys2Proof/Machine/Protocol.lean ====
section
/-! DEFINITION. The pure transition function `STEP` (R14, R83) and the wrapper that applies it to the
registers (R172), as the spec assembles them. The meanings of the twenty interrupt operations do not use
them: that the two agree is a statement. -/

namespace Sys2Proof.Machine

/-- The arms of `STEP` in `Handshake(i)`: state `self`, advancing to `next` with reply `ack` (R83). -/
def handshakeArm (i : Fin 4) (self next : PState) (ack : Word) (w : Word) : PState × Option Word :=
  if low16 w = key i ∧ high16 w = not16 (key i) then (next, some ack)
  else if low16 w = key i ∧ high16 w ≠ not16 (key i) then
    (self, some (zext32 (not16 (key i)) ||| (zext32 (key i) <<< 16)))
  else (.hs0, none)

/-- `STEP(s, w, c)` (R83): the next protocol state and the reply, if there is one. -/
def stepFn (s : PState) (w c : Word) : PState × Option Word :=
  match s with
  | .hs0 => handshakeArm 0 .hs0 .hs1 (zext32 (high16 w) ||| (zext32 (key 1) <<< 16)) w
  | .hs1 => handshakeArm 1 .hs1 .hs2 (zext32 (high16 w) ||| (zext32 (key 2) <<< 16)) w
  | .hs2 => handshakeArm 2 .hs2 .hs3 (zext32 (high16 w) ||| (zext32 (key 3) <<< 16)) w
  | .hs3 => handshakeArm 3 .hs3 .mg1 som w
  | .mg1 => if w = magic 0 then (.mg2, some (magic 1)) else (.hs0, none)
  | .mg2 => if w = magic 1 then (.mg3, some (magic 2)) else (.hs0, none)
  | .mg3 => if w = magic 2 then (.sendData, some (magic 3)) else (.hs0, none)
  | .sendData => if w = poll then (.sendData, some c) else (.hs0, none)

/-- The label of a violation met in a state (R167). -/
def violationClass : PState → ViolationClass
  | .hs0 | .hs1 | .hs2 | .hs3 => .vKey
  | .mg1 | .mg2 | .mg3 => .vMagic
  | .sendData => .vPoll

/-- `IRQ_STEP` (R172) on a state with an interrupt pending: clear the bit, read the word, apply `STEP`,
write the state, reply if there is a reply; where there is none the violation has been raised, and the
event log has its label (R167) and word (log entry 15). -/
def irqWrapper (s : State) : State :=
  let entered := writePending false s
  let w := readSiodata entered
  let r := stepFn (readPstate entered) w (readCmd entered)
  let moved := writePstate r.1 entered
  match r.2 with
  | some v => reply v moved
  | none => logViolation ⟨violationClass s.pstate, w⟩ moved

end Sys2Proof.Machine
end

