-- ==== Sys2Proof/Machine/Trace.lean ====
section
/-! DEFINITION. The trace notation (R86): lines, their expansion into steps, and running them. -/

namespace Sys2Proof.Machine

/-- One step of a trace after expansion (R86). -/
inductive TraceStep where
  | host (op : HostOp)
  | xfer (w : Word)
  | irq
deriving DecidableEq, Repr

/-- One line of a trace: a step, or a pseudo-step (R86). -/
inductive TraceLine where
  | one (t : TraceStep)
  /-- `RX w`: `XFER w`, then `IRQ` -/
  | rx (w : Word)
  /-- `POLLRX`: `RX 0x30000003` -/
  | pollRx
  /-- `FRAME`: `UPDATE`; the frame wait itself is external and changes nothing -/
  | frame
deriving DecidableEq, Repr

/-- The steps a line stands for (R86). -/
def expandLine : TraceLine → List TraceStep
  | .one t => [t]
  | .rx w => [.xfer w, .irq]
  | .pollRx => [.xfer poll, .irq]
  | .frame => [.host .update]

/-- The steps of a whole trace. -/
def expandTrace (l : List TraceLine) : List TraceStep := l.flatMap expandLine

/-- One step of a trace. A step that is not enabled is refused: the trace is ill-formed (R86). -/
def traceStep (t : TraceStep) (s : State) : Result :=
  match t with
  | .host op => exec (hostInstr op) s
  | .xfer w => exec (.xfer w) s
  | .irq => exec (decodeIrq s.pstate s.siodata) s

/-- The steps of a trace, from top to bottom. -/
def runTrace : List TraceStep → State → Result
  | [], s => .next s
  | t :: rest, s =>
    match traceStep t s with
    | .next u => runTrace rest u
    | .fault f => .fault f
    | .refused r => .refused r

/-- The requests a trace makes of the machine. An `IRQ` line requests nothing: the machine takes a
pending interrupt by itself (R171). -/
def traceInputs : List TraceStep → List Input
  | [] => []
  | .host op :: rest => .host (hostWord op) :: traceInputs rest
  | .xfer w :: rest => .link w :: traceInputs rest
  | .irq :: rest => traceInputs rest

end Sys2Proof.Machine
end

