-- ==== Sys2Proof/Safety.lean ====
section
/-! DEFINITION. The properties of states that the statements are made in: the invariants of the block,
the stalled link, and where a word that is sent can come from. -/

namespace Sys2Proof.Machine

/-- `CMD` holds one of the three commands (R27). -/
def State.CommandValid (s : State) : Prop := s.cmd = cStop ∨ s.cmd = cHardStop ∨ s.cmd = cStart

/-- While an interrupt is pending the link is not armed (R145, R171; 95_test_vectors.md 2.6). -/
def State.PendingUnarmed (s : State) : Prop := s.irqPending = true → startFlag s.siocnt = false

/-- The invariant of the block. -/
def State.Inv (s : State) : Prop := s.CommandValid ∧ s.PendingUnarmed

/-- The link is stalled: no transfer is armed and no interrupt is pending (R148). -/
def State.Stalled (s : State) : Prop := s.irqPending = false ∧ startFlag s.siocnt = false

/-- The constant words an interrupt step replies with (R79): eight of the handshake, three of the magic
exchange. -/
def constantReplies : List Word :=
  [0x544EB6B1#32, 0x4E45ABB1#32, 0x4F44B1BA#32, 0x8000B0BB#32, 0x494EB6B1#32, 0x544EABB1#32,
    0x4E45B1BA#32, 0x4F44B0BB#32, 0x10000010#32, 0x20000013#32, 0x40000004#32]

/-- Where a word that is sent can come from (R149): the content of `SIODATA` at arming, a constant reply,
a command served at a poll, or a received word that was a violation, as the event log keeps it (log
entry 15). -/
def Accounted (first : Word) (log : List Violation) (w : Word) : Prop :=
  w = first ∨ w ∈ constantReplies ∨ (w = cStop ∨ w = cHardStop ∨ w = cStart) ∨ ∃ v ∈ log, v.word = w

/-- Every word sent so far is accounted for, and so is the word the next transfer would send. -/
def State.TxAccounted (first : Word) (s : State) : Prop :=
  s.CommandValid ∧ (∀ w ∈ s.txLog, Accounted first s.violationLog w) ∧
    (s.irqPending = false → Accounted first s.violationLog s.siodata)

/-- `CMD` is not Start, and where the word `0x40000026` was sent, or is what the next transfer would send,
a violation was logged on that word (R131, R149; the word in the log entry is log entry 15). -/
def State.StartAccounted (s : State) : Prop :=
  s.cmd ≠ 0x40000026#32 ∧
    (0x40000026#32 ∈ s.txLog → ∃ v ∈ s.violationLog, v.word = 0x40000026#32) ∧
    (s.irqPending = false → s.siodata = 0x40000026#32 → ∃ v ∈ s.violationLog, v.word = 0x40000026#32)

/-- How far the handshake has come: two for each state passed, one for a transfer waiting to be handled
(R22, R133). -/
def State.progress (s : State) : Nat :=
  2 * (pstateCode s.pstate).toNat + (if s.irqPending then 1 else 0)

/-- An interrupt is pending, and the received word `w` waits to be decoded in state `p`. -/
def State.Waiting (s : State) (p : PState) (w : Word) : Prop :=
  s.irqPending = true ∧ s.pstate = p ∧ s.siodata = w

/-- What a replying interrupt step leaves (R80, R172): the interrupt taken, the protocol state `p`, the
reply `v` in `SIODATA`, bit 7 of `SIOCNT` set, and nothing else changed. -/
def State.replied (s : State) (p : PState) (v : Word) : State :=
  { s with irqPending := false, pstate := p, siodata := v, siocnt := s.siocnt ||| 0x0080#16 }

/-- What a protocol violation leaves (R166): the interrupt taken, `Handshake(0)`, and nothing else of the
block changed; the event log has the label (R167) and, by the model's choice, the offending word (log
entry 15). -/
def State.violated (s : State) (c : ViolationClass) : State :=
  { s with irqPending := false, pstate := .hs0, violationLog := s.violationLog ++ [⟨c, s.siodata⟩] }

/-- `Handshake(i)` (R13). -/
def handshakeState : Fin 4 → PState
  | 0 => .hs0
  | 1 => .hs1
  | 2 => .hs2
  | 3 => .hs3

/-- A state of the handshake (R21). -/
def isHandshake (p : PState) : Prop := p = .hs0 ∨ p = .hs1 ∨ p = .hs2 ∨ p = .hs3

/-- `SIOCNT` without its bit 7: the bits the block never changes (R28, R206). -/
def modeBits (v : Half) : Half := v &&& 0xFF7F#16

end Sys2Proof.Machine
end

