-- ==== Sys2Proof/Certificates/Slice0/Obligations.lean ====
section
/-! DEFINITION. The statements about the machine that the provers are given. Words and masks are written
out from the spec, not taken from the model's tables. -/

open Sys2Proof Sys2Proof.Machine

/-! ### What each operation does, and that it completes -/

/-- `HS0_ACK` to `HS3_ACK` (R101, R104, R107, R110): which word selects each, and that it then completes
with its reply, the successor state, `START` set and nothing else changed. -/
def Obligations.HandshakeAckRepliesAndAdvances : Prop :=
  (∀ s : State,
    (s.Waiting .hs0 0xB6B1494E#32 → exec .hs0Ack s = .next (s.replied .hs1 0x544EB6B1#32)) ∧
    (s.Waiting .hs1 0xABB1544E#32 → exec .hs1Ack s = .next (s.replied .hs2 0x4E45ABB1#32)) ∧
    (s.Waiting .hs2 0xB1BA4E45#32 → exec .hs2Ack s = .next (s.replied .hs3 0x4F44B1BA#32)) ∧
    (s.Waiting .hs3 0xB0BB4F44#32 → exec .hs3Ack s = .next (s.replied .mg1 0x8000B0BB#32))) ∧
  (∀ w : Word,
    (decodeIrq .hs0 w = .hs0Ack ↔ w = 0xB6B1494E#32) ∧
    (decodeIrq .hs1 w = .hs1Ack ↔ w = 0xABB1544E#32) ∧
    (decodeIrq .hs2 w = .hs2Ack ↔ w = 0xB1BA4E45#32) ∧
    (decodeIrq .hs3 w = .hs3Ack ↔ w = 0xB0BB4F44#32)) ∧
  (∀ (s : State) (p : PState) (v : Word), s.PendingUnarmed → s.irqPending = true →
    startFlag s.siocnt = false ∧ startFlag (s.replied p v).siocnt = true)

/-- `HS0_NAK` to `HS3_NAK` (R102, R105, R108, R111): selected by the key with any other high half, each
completes with the expected complement and the same key as its reply, the state kept. -/
def Obligations.HandshakeNakRepliesAndHolds : Prop :=
  (∀ (s : State) (chk : Half),
    (chk ≠ 0xB6B1#16 → s.Waiting .hs0 (chk ++ 0x494E#16) →
      exec (.hs0Nak chk) s = .next (s.replied .hs0 0x494EB6B1#32)) ∧
    (chk ≠ 0xABB1#16 → s.Waiting .hs1 (chk ++ 0x544E#16) →
      exec (.hs1Nak chk) s = .next (s.replied .hs1 0x544EABB1#32)) ∧
    (chk ≠ 0xB1BA#16 → s.Waiting .hs2 (chk ++ 0x4E45#16) →
      exec (.hs2Nak chk) s = .next (s.replied .hs2 0x4E45B1BA#32)) ∧
    (chk ≠ 0xB0BB#16 → s.Waiting .hs3 (chk ++ 0x4F44#16) →
      exec (.hs3Nak chk) s = .next (s.replied .hs3 0x4F44B0BB#32))) ∧
  (∀ chk keyf : Half,
    (decodeIrq .hs0 (chk ++ keyf) = .hs0Nak chk ↔ keyf = 0x494E#16 ∧ chk ≠ 0xB6B1#16) ∧
    (decodeIrq .hs1 (chk ++ keyf) = .hs1Nak chk ↔ keyf = 0x544E#16 ∧ chk ≠ 0xABB1#16) ∧
    (decodeIrq .hs2 (chk ++ keyf) = .hs2Nak chk ↔ keyf = 0x4E45#16 ∧ chk ≠ 0xB1BA#16) ∧
    (decodeIrq .hs3 (chk ++ keyf) = .hs3Nak chk ↔ keyf = 0x4F44#16 ∧ chk ≠ 0xB0BB#16))

/-- `HS0_RST` to `HS3_RST` (R103, R106, R109, R112): selected by every word with the wrong key whatever
its high half, each completes by raising the violation `V_KEY`, and `START` keeps the value 0 it has while
an interrupt is pending. That the log entry keeps the received word is the model's choice (log entry 15).
-/
def Obligations.HandshakeWrongKeyViolates : Prop :=
  (∀ (s : State) (chk keyf : Half),
    (keyf ≠ 0x494E#16 → s.Waiting .hs0 (chk ++ keyf) →
      exec (.hs0Rst chk keyf) s = .next (s.violated .vKey)) ∧
    (keyf ≠ 0x544E#16 → s.Waiting .hs1 (chk ++ keyf) →
      exec (.hs1Rst chk keyf) s = .next (s.violated .vKey)) ∧
    (keyf ≠ 0x4E45#16 → s.Waiting .hs2 (chk ++ keyf) →
      exec (.hs2Rst chk keyf) s = .next (s.violated .vKey)) ∧
    (keyf ≠ 0x4F44#16 → s.Waiting .hs3 (chk ++ keyf) →
      exec (.hs3Rst chk keyf) s = .next (s.violated .vKey))) ∧
  (∀ chk keyf : Half,
    (decodeIrq .hs0 (chk ++ keyf) = .hs0Rst chk keyf ↔ keyf ≠ 0x494E#16) ∧
    (decodeIrq .hs1 (chk ++ keyf) = .hs1Rst chk keyf ↔ keyf ≠ 0x544E#16) ∧
    (decodeIrq .hs2 (chk ++ keyf) = .hs2Rst chk keyf ↔ keyf ≠ 0x4E45#16) ∧
    (decodeIrq .hs3 (chk ++ keyf) = .hs3Rst chk keyf ↔ keyf ≠ 0x4F44#16)) ∧
  (∀ (s : State) (c : ViolationClass), s.PendingUnarmed → s.irqPending = true →
    startFlag (s.violated c).siocnt = false)

/-- `MG1_OK` to `MG3_OK` (R121, R123, R125): exactly the expected magic value selects each, and it
completes with the next magic value as its reply, a constant whatever `CMD` holds. -/
def Obligations.MagicMatchRepliesAndAdvances : Prop :=
  (∀ s : State,
    (s.Waiting .mg1 0xB0BB8002#32 → exec .mg1Ok s = .next (s.replied .mg2 0x10000010#32)) ∧
    (s.Waiting .mg2 0x10000010#32 → exec .mg2Ok s = .next (s.replied .mg3 0x20000013#32)) ∧
    (s.Waiting .mg3 0x20000013#32 → exec .mg3Ok s = .next (s.replied .sendData 0x40000004#32))) ∧
  (∀ w : Word,
    (decodeIrq .mg1 w = .mg1Ok ↔ w = 0xB0BB8002#32) ∧
    (decodeIrq .mg2 w = .mg2Ok ↔ w = 0x10000010#32) ∧
    (decodeIrq .mg3 w = .mg3Ok ↔ w = 0x20000013#32))

/-- `MG1_RST` to `MG3_RST` (R122, R124, R126): every other word selects it, and it completes by raising
the violation `V_MAGIC`; `START` keeps the value 0 it has while an interrupt is pending. That the log
entry keeps the received word is the model's choice (log entry 15). -/
def Obligations.MagicMismatchViolates : Prop :=
  (∀ (s : State) (w : Word),
    (w ≠ 0xB0BB8002#32 → s.Waiting .mg1 w → exec (.mg1Rst w) s = .next (s.violated .vMagic)) ∧
    (w ≠ 0x10000010#32 → s.Waiting .mg2 w → exec (.mg2Rst w) s = .next (s.violated .vMagic)) ∧
    (w ≠ 0x20000013#32 → s.Waiting .mg3 w → exec (.mg3Rst w) s = .next (s.violated .vMagic))) ∧
  (∀ w : Word,
    (decodeIrq .mg1 w = .mg1Rst w ↔ w ≠ 0xB0BB8002#32) ∧
    (decodeIrq .mg2 w = .mg2Rst w ↔ w ≠ 0x10000010#32) ∧
    (decodeIrq .mg3 w = .mg3Rst w ↔ w ≠ 0x20000013#32)) ∧
  (∀ (s : State) (c : ViolationClass), s.PendingUnarmed → s.irqPending = true →
    startFlag (s.violated c).siocnt = false)

/-- `SD_POLL` and `SD_RST` (R131, R132): the poll word is answered with the content of `CMD`, verbatim and
with `CMD` kept; every other word is the violation `V_POLL`, and `CMD` survives it, with `START` still 0.
That the log entry keeps the received word is the model's choice (log entry 15). -/
def Obligations.SteadyStateServesOrViolates : Prop :=
  (∀ (s : State) (w : Word),
    (s.Waiting .sendData 0x30000003#32 → exec .sdPoll s = .next (s.replied .sendData s.cmd)) ∧
    (w ≠ 0x30000003#32 → s.Waiting .sendData w → exec (.sdRst w) s = .next (s.violated .vPoll))) ∧
  (∀ w : Word,
    (decodeIrq .sendData w = .sdPoll ↔ w = 0x30000003#32) ∧
    (decodeIrq .sendData w = .sdRst w ↔ w ≠ 0x30000003#32)) ∧
  (∀ (s : State) (c : ViolationClass), s.PendingUnarmed → s.irqPending = true →
    startFlag (s.violated c).siocnt = false)

/-- `SET_START`, `SET_STOP`, `SET_HARDSTOP` (R136, R137, R138): in every protocol state, with no interrupt
pending, each completes, writes its word to `CMD` and changes nothing else; a second call of the same
setter changes nothing. -/
def Obligations.SettersOverwriteCommand : Prop :=
  ∀ s : State, s.irqPending = false →
    exec .setStart s = .next { s with cmd := 0x40000026#32 } ∧
    exec .setStop s = .next { s with cmd := 0x40000004#32 } ∧
    exec .setHardStop s = .next { s with cmd := 0x40000015#32 } ∧
    (s.cmd = 0x40000026#32 → exec .setStart s = .next s) ∧
    (s.cmd = 0x40000004#32 → exec .setStop s = .next s) ∧
    (s.cmd = 0x40000015#32 → exec .setHardStop s = .next s)

/-- `UPDATE` (R139): with no interrupt pending it completes in every protocol state, sets bit 7 of
`SIOCNT`, keeps the other fifteen bits and everything else, and changes nothing where bit 7 is set. -/
def Obligations.UpdateSetsOnlyStart : Prop :=
  ∀ s : State, s.irqPending = false →
    exec .update s = .next { s with siocnt := s.siocnt ||| 0x0080#16 } ∧
    (s.siocnt ||| 0x0080#16).getLsbD 7 = true ∧
    (∀ n : Nat, n ≠ 7 → (s.siocnt ||| 0x0080#16).getLsbD n = s.siocnt.getLsbD n) ∧
    (s.siocnt.getLsbD 7 = true → exec .update s = .next s)

/-- `XFER(w)` (R146): with `START` = 1 and no interrupt pending it completes for every word; it sends the
old content of `SIODATA`, stores `w`, clears bit 7 of `SIOCNT` alone, raises the interrupt, and changes
nothing else. With `START` = 0 it is not enabled. -/
def Obligations.TransferExchangesWords : Prop :=
  ∀ (s : State) (w : Word), s.irqPending = false →
    (s.siocnt.getLsbD 7 = true →
      exec (.xfer w) s = .next { s with
        txLog := s.txLog ++ [s.siodata], siodata := w, siocnt := s.siocnt &&& 0xFF7F#16,
        irqPending := true }) ∧
    (s.siocnt &&& 0xFF7F#16).getLsbD 7 = false ∧
    (∀ n : Nat, n ≠ 7 → (s.siocnt &&& 0xFF7F#16).getLsbD n = s.siocnt.getLsbD n) ∧
    (s.siocnt.getLsbD 7 = false → exec (.xfer w) s = .refused .linkNotArmed)

/-! ### Decoding and encoding -/

/-- Decode undoes encode: every well-formed operation, with every value of its fields, is what its slot
and word decode to (R71, R72, R78, R84). -/
def Obligations.DecodeOfEncode : Prop :=
  ∀ i : Instr, i.wellFormed = true → decode (encode i).1 (encode i).2 = .ok i

/-- Encode undoes decode: whatever a word decodes to in a slot is well formed and has that slot and that
word as its encoding, so no bit of a word is dropped (R77, R78, R84). -/
def Obligations.EncodeOfDecode : Prop :=
  ∀ (slot : Slot) (w : Word) (i : Instr), decode slot w = .ok i →
    i.wellFormed = true ∧ encode i = (slot, w)

/-- Words written out from the encodings of R78 and R84 decode to their operations, one or more of each
family. -/
def Obligations.SampleWordsDecode : Prop :=
  decode (.irq .hs0) 0xB6B1494E#32 = .ok .hs0Ack ∧
  decode (.irq .hs2) 0x00004E45#32 = .ok (.hs2Nak 0x0000#16) ∧
  decode (.irq .hs3) 0x4F44B0BB#32 = .ok (.hs3Rst 0x4F44#16 0xB0BB#16) ∧
  decode (.irq .mg2) 0x10000010#32 = .ok .mg2Ok ∧
  decode (.irq .mg1) 0x8000B0BB#32 = .ok (.mg1Rst 0x8000B0BB#32) ∧
  decode (.irq .sendData) 0x30000003#32 = .ok .sdPoll ∧
  decode .host 0x40000015#32 = .ok .setHardStop ∧
  decode .host 0x00000080#32 = .ok .update ∧
  decode .link 0x30000003#32 = .ok (.xfer 0x30000003#32)

/-- Decode is by state, then by word, first row first (R77): for every state and word exactly one of the
twenty rows is selected, and the decoder gives that row's operation. -/
def Obligations.DecoderSelectsTheOneRow : Prop :=
  ∀ (p : PState) (w : Word), ∃ r ∈ decodeRows,
    r.selectedBy p w = true ∧ r.mnemonic = (decodeIrq p w).mnemonic ∧
    ∀ q ∈ decodeRows, q.selectedBy p w = true → q = r

/-- A word that is legal in one state is illegal in every other (R82), and an illegal word is consumed:
the step that meets it ends in `Handshake(0)` with no interrupt pending, `SIODATA` keeping the word, so
the word is not decoded again. The value `0x40000004` is matched in no state. -/
def Obligations.LegalWordBelongsToOneState : Prop :=
  (∀ (p q : PState) (w : Word), p ≠ q → (decodeIrq p w).isReset = false →
    (decodeIrq q w).isReset = true) ∧
  (∀ (s : State), s.irqPending = true → (decodeIrq s.pstate s.siodata).isReset = true →
    ∃ t, step s = .next t ∧ t.pstate = .hs0 ∧ t.irqPending = false ∧ t.siodata = s.siodata ∧
      t.siocnt = s.siocnt ∧ t.txLog = s.txLog) ∧
  (∀ p : PState, (decodeIrq p 0x40000004#32).isReset = true)

/-! ### The step -/

/-- A step performs the operation that the next word decodes to: the received word in the present
protocol state while an interrupt is pending, else the next request with that request taken off the list
(log entry 1). -/
def Obligations.StepRunsTheDecodedOperation : Prop :=
  (∀ (s : State) (i : Instr), s.irqPending = true → decode (.irq s.pstate) s.siodata = .ok i →
    step s = exec i s) ∧
  (∀ (s : State) (w : Word) (rest : List Input) (i : Instr), s.irqPending = false →
    s.inputs = .host w :: rest → decode .host w = .ok i → step s = exec i { s with inputs := rest }) ∧
  (∀ (s : State) (w : Word) (rest : List Input) (i : Instr), s.irqPending = false →
    s.inputs = .link w :: rest → decode .link w = .ok i → step s = exec i { s with inputs := rest })

/-- Dispatch (R171). While an interrupt is pending the interrupt step is the only enabled step, and it
completes; while none is pending no interrupt operation is enabled, the four `HOST` operations always
are, and `XFER` is for every word if `START` = 1. -/
def Obligations.InterruptExcludesOtherAgents : Prop :=
  ∀ s : State,
    (s.irqPending = true →
      (∀ op, exec (hostInstr op) s = .refused .interruptPending) ∧
      (∀ w, exec (.xfer w) s = .refused .overrun) ∧
      ∃ t, step s = .next t ∧ exec (decodeIrq s.pstate s.siodata) s = .next t) ∧
    (s.irqPending = false →
      (∀ i p, (encode i).1 = .irq p → exec i s = .refused .notSelected) ∧
      (∀ op, ∃ t, exec (hostInstr op) s = .next t) ∧
      (startFlag s.siocnt = true → ∀ w, ∃ t, exec (.xfer w) s = .next t))

/-- `XFER` is enabled if and only if `START` = 1 (R145), in every state in which no armed link has an
interrupt pending; and it is not enabled while an interrupt is pending. -/
def Obligations.TransferEnabledIffArmed : Prop :=
  ∀ (s : State) (w : Word), s.PendingUnarmed →
    ((∃ t, exec (.xfer w) s = .next t) ↔ startFlag s.siocnt = true) ∧
    (s.irqPending = true → exec (.xfer w) s = .refused .overrun)

/-- The interrupt step refines `STEP` (R83, R172): on every state with an interrupt pending, the one of
the twenty operations that the state and the word select does what the wrapper around the pure function
does. That the log entry keeps the received word is the model's choice (log entry 15). -/
def Obligations.InterruptStepRefinesStepFunction : Prop :=
  ∀ s : State, s.irqPending = true →
    step s = .next (irqWrapper s) ∧ exec (decodeIrq s.pstate s.siodata) s = .next (irqWrapper s)

/-- The interrupt step has the columns of its row of spec/opcode_table.json (R87): next state, reply,
whether it arms, and the violation; `CMD` and everything else keep their values. That the log entry keeps
the received word is the model's choice (log entry 15). -/
def Obligations.InterruptStepFollowsItsTableRow : Prop :=
  ∀ s : State, s.irqPending = true → ∀ r ∈ decodeRows, r.selectedBy s.pstate s.siodata = true →
    step s = .next { s with
      irqPending := false
      pstate := r.next
      siodata := (replyWord r.reply s.cmd).getD s.siodata
      siocnt := if r.arm then s.siocnt ||| 0x0080#16 else s.siocnt
      violationLog := s.violationLog ++ (r.violation.map fun c => ⟨c, s.siodata⟩).toList }

/-- Each `*_RST` operation raises a protocol violation always and inside an interrupt step; no other
operation of any agent raises anything (R165). That the log entry keeps the received word is the model's
choice (log entry 15). -/
def Obligations.OnlyResetRowsRaiseViolations : Prop :=
  ∀ (i : Instr) (s t : State), exec i s = .next t →
    (i.isReset = true → s.irqPending = true ∧ ∃ c, t = s.violated c) ∧
    (i.isReset = false → t.violationLog = s.violationLog)

/-- The causes of a violation and their labels (R167), with the one effect of R166: in each state the
words that violate, and what the step then leaves, with `START` still 0. That the log entry keeps the
received word is the model's choice (log entry 15). -/
def Obligations.ViolationCausesAndLabels : Prop :=
  ∀ s : State, s.irqPending = true →
    (s.pstate = .hs0 → low16 s.siodata ≠ 0x494E#16 → step s = .next (s.violated .vKey)) ∧
    (s.pstate = .hs1 → low16 s.siodata ≠ 0x544E#16 → step s = .next (s.violated .vKey)) ∧
    (s.pstate = .hs2 → low16 s.siodata ≠ 0x4E45#16 → step s = .next (s.violated .vKey)) ∧
    (s.pstate = .hs3 → low16 s.siodata ≠ 0x4F44#16 → step s = .next (s.violated .vKey)) ∧
    (s.pstate = .mg1 → s.siodata ≠ 0xB0BB8002#32 → step s = .next (s.violated .vMagic)) ∧
    (s.pstate = .mg2 → s.siodata ≠ 0x10000010#32 → step s = .next (s.violated .vMagic)) ∧
    (s.pstate = .mg3 → s.siodata ≠ 0x20000013#32 → step s = .next (s.violated .vMagic)) ∧
    (s.pstate = .sendData → s.siodata ≠ 0x30000003#32 → step s = .next (s.violated .vPoll)) ∧
    (s.PendingUnarmed → ∀ c, startFlag (s.violated c).siocnt = false)

/-- A key-only match is no violation and its reply ignores the received high half (R102, R168): two words
of `Handshake(i)` that differ only in a wrong high half lead to the same next state, with the protocol
state and the event log kept. -/
def Obligations.NakReplyIgnoresReceivedHighHalf : Prop :=
  ∀ (k : Fin 4) (s : State) (hi hi' : Half), s.irqPending = true → s.pstate = handshakeState k →
    hi ≠ not16 (key k) → hi' ≠ not16 (key k) →
    ∃ t, step { s with siodata := hi ++ key k } = .next t ∧
      step { s with siodata := hi' ++ key k } = .next t ∧
      t.pstate = s.pstate ∧ t.violationLog = s.violationLog ∧ startFlag t.siocnt = true

/-! ### The protocol state -/

/-- The lifecycle of `PSTATE` (R23): it is `Handshake(0)` at arming, and every step keeps it, moves it to
its one successor, or sets it to `Handshake(0)`. -/
def Obligations.ProtocolStateAdvancesHoldsOrResets : Prop :=
  (∀ p : ResetParams, (State.armed p).pstate = .hs0) ∧
  (∀ s t : State, step s = .next t →
    t.pstate = s.pstate ∨ successor s.pstate = some t.pstate ∨ t.pstate = .hs0)

/-- The one way out of the handshake states, the one way into `SendData`, and the one way out of it
(R113 (a), R125, R130). -/
def Obligations.ProtocolStateGates : Prop :=
  ∀ s t : State, step s = .next t →
    (isHandshake s.pstate → ¬ isHandshake t.pstate → s.Waiting .hs3 0xB0BB4F44#32 ∧ t.pstate = .mg1) ∧
    (s.pstate ≠ .sendData → t.pstate = .sendData → s.Waiting .mg3 0x20000013#32) ∧
    (s.pstate = .sendData → t.pstate ≠ .sendData →
      s.irqPending = true ∧ s.siodata ≠ 0x30000003#32 ∧ t.pstate = .hs0)

/-- The code of `PSTATE` (R24): eight states for eight codes, the successor one code on, the violation
target code 0. -/
def Obligations.ProtocolStateCodeIsExact : Prop :=
  (∀ p : PState, pstateOfCode (pstateCode p) = p) ∧
  (∀ c : BitVec 3, pstateCode (pstateOfCode c) = c) ∧
  (∀ p q : PState, successor p = some q → pstateCode q = pstateCode p + 1) ∧
  pstateCode .hs0 = 0 ∧ pstateCode .hs1 = 1 ∧ pstateCode .hs2 = 2 ∧ pstateCode .hs3 = 3 ∧
  pstateCode .mg1 = 4 ∧ pstateCode .mg2 = 5 ∧ pstateCode .mg3 = 6 ∧ pstateCode .sendData = 7

/-- Reaching `SendData` from `Handshake(0)` takes at least seven interrupt steps, each after a transfer of
its own: no run of fewer than fourteen steps of the machine gets there (R113 (b), R133 (c)). -/
def Obligations.SendDataIsFourteenStepsAway : Prop :=
  ∀ (n : Nat) (s t : State), s.pstate = .hs0 → s.irqPending = false →
    Host.Core.run Sys2Proof.core n s = .next t → t.pstate = .sendData → 14 ≤ n

/-- From every armed `Handshake(0)` state the seven matching words, and no others, lead through the
handshake and the magic exchange to `SendData`, each sent word being the reply before it (R113 (b),
R127 (a)). -/
def Obligations.MatchingWordsReachSendData : Prop :=
  ∀ s : State, s.pstate = .hs0 → s.irqPending = false → startFlag s.siocnt = true →
    runTrace (expandTrace [.rx 0xB6B1494E#32, .rx 0xABB1544E#32, .rx 0xB1BA4E45#32, .rx 0xB0BB4F44#32,
        .rx 0xB0BB8002#32, .rx 0x10000010#32, .rx 0x20000013#32]) s =
      .next { s with
        pstate := .sendData, siodata := 0x40000004#32,
        txLog := s.txLog ++ [s.siodata, 0x544EB6B1#32, 0x4E45ABB1#32, 0x4F44B1BA#32, 0x8000B0BB#32,
          0x10000010#32, 0x20000013#32] } ∧
    ∀ (a b c d e f g : Word) (t : State),
      runTrace (expandTrace [.rx a, .rx b, .rx c, .rx d, .rx e, .rx f, .rx g]) s = .next t →
      t.pstate = .sendData →
      a = 0xB6B1494E#32 ∧ b = 0xABB1544E#32 ∧ c = 0xB1BA4E45#32 ∧ d = 0xB0BB4F44#32 ∧
      e = 0xB0BB8002#32 ∧ f = 0x10000010#32 ∧ g = 0x20000013#32

/-! ### The command register -/

/-- The invariant of `CMD` (R27): it is one of the three commands at arming and after every step from a
state where it is; and `SD_POLL` sends its content verbatim whatever it is. -/
def Obligations.CommandStaysOneOfThree : Prop :=
  (∀ p : ResetParams, (State.armed p).CommandValid) ∧
  (∀ s t : State, s.CommandValid → step s = .next t → t.CommandValid) ∧
  (∀ s : State, s.Waiting .sendData 0x30000003#32 →
    ∃ t, step s = .next t ∧ t.siodata = s.cmd ∧ t.cmd = s.cmd)

/-- The handler serves what is current at the moment of the poll (R131 (a) to (c), R209): of two setters
before a poll the later is served; a setter after the poll's step does not change the reply; the same
command is served again at the next poll. -/
def Obligations.PollServesTheLatestCommand : Prop :=
  ∀ (s : State) (a b : HostOp), s.pstate = .sendData → s.irqPending = false →
    startFlag s.siocnt = true → a ≠ .update → b ≠ .update →
    (∃ t, runTrace [.host a, .host b, .xfer 0x30000003#32, .irq] s = .next t ∧
      t.siodata = hostWord b ∧ t.cmd = hostWord b) ∧
    (∃ t, runTrace [.xfer 0x30000003#32, .irq, .host a] s = .next t ∧
      t.siodata = s.cmd ∧ t.cmd = hostWord a) ∧
    (∃ t, runTrace [.xfer 0x30000003#32, .irq, .xfer 0x30000003#32, .irq] s = .next t ∧
      t.siodata = s.cmd ∧ t.txLog = s.txLog ++ [s.siodata, s.cmd])

/-- `CMD` is read by `SD_POLL` alone (R26, R113 (f)): any other interrupt step does the same whatever
`CMD` holds, and leaves it as it is. -/
def Obligations.OnlyPollReadsTheCommand : Prop :=
  ∀ (s t : State) (c : Word), s.irqPending = true → ¬ s.Waiting .sendData 0x30000003#32 →
    step s = .next t → step { s with cmd := c } = .next { t with cmd := c }

/-- No Start command is sent that the host did not ask for (R131, R149): a trace without `SET_START`, from
an arming state whose command is not Start, sends `0x40000026` only if `SIODATA` held it at arming or it
was received and was a violation. That the log entry keeps the received word is the model's choice (log
entry 15). -/
def Obligations.StartIsNeverSentUnasked : Prop :=
  ∀ (p : ResetParams) (l : List TraceStep) (t : State),
    p.cmdReset ≠ .start → p.siodataReset ≠ 0x40000026#32 → .host .setStart ∉ l →
    runTrace l (State.armed p) = .next t → 0x40000026#32 ∈ t.txLog →
    ∃ v ∈ t.violationLog, v.word = 0x40000026#32

/-! ### Who may write what -/

/-- Writers of the state, agent by agent (R22, R28, R39): an interrupt operation never writes `CMD` or the
`TX` log; a `HOST` operation never writes `PSTATE`, `SIODATA` or the pending bit; a transfer never writes
`PSTATE` or `CMD`; none changes a bit of `SIOCNT` other than 7. -/
def Obligations.EachAgentKeepsToItsRegisters : Prop :=
  ∀ (i : Instr) (s t : State), exec i s = .next t →
    (∀ p, (encode i).1 = .irq p → t.cmd = s.cmd ∧ t.txLog = s.txLog ∧ t.irqPending = false) ∧
    ((encode i).1 = .host → t.pstate = s.pstate ∧ t.siodata = s.siodata ∧
      t.irqPending = s.irqPending ∧ t.txLog = s.txLog) ∧
    ((encode i).1 = .link → t.pstate = s.pstate ∧ t.cmd = s.cmd) ∧
    modeBits t.siocnt = modeBits s.siocnt ∧ t.inputs = s.inputs ∧ t.draws = s.draws

/-- Where `START` is set, kept and cleared (R29): set by every replying interrupt operation and by
`UPDATE`, kept by every `*_RST` operation and every setter, cleared by `XFER` alone. -/
def Obligations.StartIsSetKeptAndCleared : Prop :=
  ∀ (i : Instr) (s t : State), exec i s = .next t →
    (i.isReplying = true ∨ i = .update → startFlag t.siocnt = true) ∧
    (i.isReset = true ∨ i = .setStart ∨ i = .setStop ∨ i = .setHardStop → t.siocnt = s.siocnt) ∧
    (startFlag s.siocnt = true → startFlag t.siocnt = false → ∃ w, i = .xfer w) ∧
    (∀ w, i = .xfer w → startFlag s.siocnt = true ∧ startFlag t.siocnt = false)

/-- The `HOST` operations do not read `PSTATE` or `SIODATA` (R135, R180): in states that differ in them
alone they do the same. -/
def Obligations.HostOperationsIgnoreProtocolState : Prop :=
  ∀ (op : HostOp) (s t : State) (p : PState) (w : Word), exec (hostInstr op) s = .next t →
    exec (hostInstr op) { s with pstate := p, siodata := w } = .next { t with pstate := p, siodata := w }

/-- Idempotence and independence (R140): each `HOST` operation twice is the operation once; none changes
`PSTATE`; a setter and `UPDATE` commute; of two setters the later wins. -/
def Obligations.HostOperationsAreIdempotentAndIndependent : Prop :=
  ∀ (s : State) (a b : HostOp), s.irqPending = false →
    (∃ t, exec (hostInstr a) s = .next t ∧ exec (hostInstr a) t = .next t ∧ t.pstate = s.pstate) ∧
    (runTrace [.host a, .host .update] s = runTrace [.host .update, .host a] s) ∧
    (a ≠ .update → b ≠ .update →
      runTrace [.host a, .host b] s = runTrace [.host b] s ∧
      (a ≠ b → runTrace [.host a, .host b] s ≠ runTrace [.host b, .host a] s)) ∧
    (startFlag s.siocnt = true → exec .update s = .next s)

/-- A bare access of the main loop is refused: as a breach of the single-writer discipline where it names a
private cell or reaches the whole of a serial register, as a partial access where it touches a serial
register otherwise, as outside the block where it touches neither; and a request that is none of the four
operations is refused as a breach of the discipline (R37, R39, R54, R141, R180). The model's own are the
refusal of an access that touches neither register, which R51 only puts outside the block, and the names of
the refusals (log entries 3, 18); the two addresses are open (log entry 17). -/
def Obligations.OtherHostRequestsAreRefused : Prop :=
  ∀ (s : State) (rest : List Input), s.irqPending = false →
    (∀ a : RegAccess, s.inputs = .hostAccess a :: rest →
      (a.place = .pstate ∨ a.place = .cmd → step s = .refused .hostDiscipline) ∧
      (a.place = .bus Config.serialAddrs.siodata 4 ∨ a.place = .bus Config.serialAddrs.siocnt 2 →
        step s = .refused .hostDiscipline) ∧
      (∀ n : Nat, n ≠ 4 → a.place = .bus Config.serialAddrs.siodata n → step s = .refused .partialAccess) ∧
      (∀ n : Nat, n ≠ 2 → a.place = .bus Config.serialAddrs.siocnt n → step s = .refused .partialAccess) ∧
      (∀ addr n : Nat, addr ≠ Config.serialAddrs.siodata → addr ≠ Config.serialAddrs.siocnt →
        a.place = .bus addr n →
        if 0 < n ∧ (addr < Config.serialAddrs.siodata + 4 ∧ Config.serialAddrs.siodata < addr + n ∨
            addr < Config.serialAddrs.siocnt + 2 ∧ Config.serialAddrs.siocnt < addr + n) then
          step s = .refused .partialAccess
        else step s = .refused .outsideBlock)) ∧
    (∀ w : Word, s.inputs = .host w :: rest →
      w ≠ 0x40000026#32 → w ≠ 0x40000004#32 → w ≠ 0x40000015#32 → w ≠ 0x00000080#32 →
      step s = .refused .hostDiscipline)

/-! ### Invariants, runs and the link -/

/-- Every step keeps the invariant of the block, from every state that has it: `CMD` is one of the three
commands, and no interrupt is pending with the link armed (R27, R145, R171). -/
def Obligations.EveryStepKeepsTheInvariant : Prop :=
  ∀ s t : State, s.Inv → step s = .next t → t.Inv

/-- The invariant holds at arming, whatever the three open parameters are, and at reset. -/
def Obligations.InvariantHoldsAtArming : Prop :=
  (∀ p : ResetParams, (State.armed p).Inv) ∧ State.reset.Inv

/-- No step changes bits 15:8 and 6:0 of `SIOCNT` (R28, R206), whatever the state. -/
def Obligations.EveryStepKeepsTheModeBits : Prop :=
  ∀ (n : Nat) (s t : State), Host.Core.run Sys2Proof.core n s = .next t →
    modeBits t.siocnt = modeBits s.siocnt

/-- The state at arming (R191), for all values of the three open parameters. -/
def Obligations.ArmingStateIsAsStated : Prop :=
  ∀ p : ResetParams,
    (State.armed p).pstate = .hs0 ∧ (State.armed p).siodata = p.siodataReset ∧
    (State.armed p).siocnt = p.siocntArmed ∧ (State.armed p).irqPending = false ∧
    (State.armed p).txLog = [] ∧
    (p.cmdReset = .stop → (State.armed p).cmd = 0x40000004#32) ∧
    (p.cmdReset = .hardStop → (State.armed p).cmd = 0x40000015#32) ∧
    (p.cmdReset = .start → (State.armed p).cmd = 0x40000026#32)

/-- The model's reset is the arming state with the values a simulator takes: a DESIGN CHOICE of the model
(log entries 4, 5, 6), no rule of the spec. -/
def Obligations.ResetTakesSimulatorValues : Prop :=
  State.reset.pstate = .hs0 ∧ State.reset.cmd = 0x40000004#32 ∧ State.reset.siodata = 0x00000000#32 ∧
    State.reset.siocnt = 0x0000#16 ∧ State.reset.irqPending = false

/-- Every word sent is `SIODATA`'s content at arming, a constant reply, a command, or a received word that
was a violation: every step keeps this account, and the arming state has it (R149). That the log entry
keeps the received word is the model's choice (log entry 15). -/
def Obligations.EverySentWordIsAccountedFor : Prop :=
  (∀ p : ResetParams, (State.armed p).TxAccounted p.siodataReset) ∧
  (∀ (first : Word) (s t : State), s.TxAccounted first → step s = .next t → t.TxAccounted first)

/-- What is sent after a violation (R149): the offending word, unchanged, by the first transfer after the
`UPDATE` that lifts the stall. -/
def Obligations.OffendingWordIsEchoed : Prop :=
  ∀ (s : State) (w : Word), s.irqPending = true → (decodeIrq s.pstate s.siodata).isReset = true →
    ∃ t, runTrace [.irq, .host .update, .xfer w] s = .next t ∧ t.txLog = s.txLog ++ [s.siodata] ∧
      t.pstate = .hs0 ∧ t.siodata = w ∧ t.cmd = s.cmd

/-- A stalled link (R148): only `HOST` steps are enabled; through any trace without `UPDATE` it stays
stalled, the protocol state, `SIODATA` and the sent words kept; `UPDATE` lifts it; and it arises after
every `*_RST` operation and at arming with bit 7 of `SIOCNT_ARMED` clear. -/
def Obligations.StalledLinkWaitsForUpdate : Prop :=
  (∀ s : State, s.Stalled →
    (∀ w, exec (.xfer w) s = .refused .linkNotArmed) ∧
    (∀ i p, (encode i).1 = .irq p → exec i s = .refused .notSelected) ∧
    (∃ t, exec .update s = .next t ∧ startFlag t.siocnt = true)) ∧
  (∀ (l : List TraceStep) (s t : State), s.Stalled → .host .update ∉ l → runTrace l s = .next t →
    t.Stalled ∧ t.pstate = s.pstate ∧ t.siodata = s.siodata ∧ t.txLog = s.txLog ∧
      t.siocnt = s.siocnt) ∧
  (∀ (i : Instr) (s t : State), s.PendingUnarmed → i.isReset = true → exec i s = .next t → t.Stalled) ∧
  (∀ p : ResetParams, p.siocntArmed.getLsbD 7 = false → (State.armed p).Stalled)

/-- `ARM()` is one atomic action (R58): it ORs `0x0080` into `SIOCNT` and changes nothing else; and an
`UPDATE` whose write-back comes after a transfer and its interrupt step ends with the `SIOCNT` that the
ordered sequence gives, the value it read with bit 7 set. -/
def Obligations.SplitUpdateEqualsOrderedUpdate : Prop :=
  (∀ s : State, arm s = { s with siocnt := s.siocnt ||| 0x0080#16 }) ∧
  (∀ (s : State) (w : Word), s.irqPending = false → startFlag s.siocnt = true →
    ∃ t, runTrace [.xfer w, .irq, .host .update] s = .next t ∧ t.siocnt = s.siocnt ||| 0x0080#16)

/-- A trace is what the machine does when it is given the trace's requests (R86, R171): if a trace runs,
then as many steps of the machine, with its requests listed and nothing after them, end in the same
state. -/
def Obligations.TraceRunIsMachineRun : Prop :=
  ∀ (l : List TraceStep) (s t : State), s.inputs = [] → runTrace l s = .next t →
    Host.Core.run Sys2Proof.core l.length { s with inputs := traceInputs l } = .next t

/-- There is no final state (R211): with no request listed, the machine takes any number of steps. That
the environment's choice falls on an enabled step is the model's reading of R213 (log entry 2). -/
def Obligations.RunNeverEnds : Prop :=
  ∀ (n : Nat) (s : State), s.inputs = [] →
    ∃ t, Host.Core.run Sys2Proof.core n s = .next t ∧ t.inputs = []

/-! ### The register interface and the account of Start -/

/-- The register interface by address (R12, R50, R51, R55), for any two distinct addresses: whole reads give
the registers and whole writes change that register alone; `ARM()` and `REPLY(v)` are the accesses R12
writes them as; an access of another size at either address has no meaning (R54). -/
def Obligations.InterfaceReachesTheSerialRegisters : Prop :=
  ∀ (m : SerialAddrs) (s : State),
    memRead m m.siodata 4 s = .ok s.siodata.toNat ∧
    memRead m m.siocnt 2 s = .ok s.siocnt.toNat ∧
    (∀ v : Word, memWrite m m.siodata 4 v.toNat s = .ok { s with siodata := v }) ∧
    (∀ v : Half, memWrite m m.siocnt 2 v.toNat s = .ok { s with siocnt := v }) ∧
    (∀ v, memRead m m.siocnt 2 s = .ok v → memWrite m m.siocnt 2 (v ||| 0x0080) s = .ok (arm s)) ∧
    (∀ (v : Word) (t : State), memWrite m m.siodata 4 v.toNat s = .ok t → reply v s = arm t) ∧
    (∀ n v : Nat, n ≠ 4 → memRead m m.siodata n s = .error .partialAccess ∧
      memWrite m m.siodata n v s = .error .partialAccess) ∧
    (∀ n v : Nat, n ≠ 2 → memRead m m.siocnt n s = .error .partialAccess ∧
      memWrite m m.siocnt n v s = .error .partialAccess)

/-- The word Start stays accounted for (R131, R149): every operation but `SET_START` keeps it that `CMD`
is not Start and that `0x40000026` was sent, or waits to be sent, only where a violation was logged on it;
and the arming states without Start have it. That the log entry keeps the received word is the model's
choice (log entry 15). -/
def Obligations.EveryOtherOperationKeepsStartAccounted : Prop :=
  (∀ p : ResetParams, p.cmdReset ≠ .start → p.siodataReset ≠ 0x40000026#32 →
    (State.armed p).StartAccounted) ∧
  (∀ (i : Instr) (s t : State), i ≠ .setStart → s.StartAccounted → exec i s = .next t → t.StartAccounted)
end

