-- ==== Sys2Proof/Laws/State.lean ====
section
/-! SUPPORT. What each register operation leaves in each field of the state, and what each read gives:
one lemma per field per operation, true by computation. -/

namespace Sys2Proof.Machine

@[simp] theorem readSiodata_eq (s : State) : readSiodata s = s.siodata := rfl
@[simp] theorem readSiocnt_eq (s : State) : readSiocnt s = s.siocnt := rfl
@[simp] theorem readPstate_eq (s : State) : readPstate s = s.pstate := rfl
@[simp] theorem readCmd_eq (s : State) : readCmd s = s.cmd := rfl

@[simp] theorem writeSiodata_pstate (v : Word) (s : State) : (writeSiodata v s).pstate = s.pstate := rfl
@[simp] theorem writeSiodata_siodata (v : Word) (s : State) : (writeSiodata v s).siodata = v := rfl
@[simp] theorem writeSiodata_cmd (v : Word) (s : State) : (writeSiodata v s).cmd = s.cmd := rfl
@[simp] theorem writeSiodata_siocnt (v : Word) (s : State) : (writeSiodata v s).siocnt = s.siocnt := rfl
@[simp] theorem writeSiodata_irqPending (v : Word) (s : State) : (writeSiodata v s).irqPending = s.irqPending := rfl
@[simp] theorem writeSiodata_txLog (v : Word) (s : State) : (writeSiodata v s).txLog = s.txLog := rfl
@[simp] theorem writeSiodata_violationLog (v : Word) (s : State) : (writeSiodata v s).violationLog = s.violationLog := rfl
@[simp] theorem writeSiodata_inputs (v : Word) (s : State) : (writeSiodata v s).inputs = s.inputs := rfl
@[simp] theorem writeSiodata_draws (v : Word) (s : State) : (writeSiodata v s).draws = s.draws := rfl

@[simp] theorem writeSiocnt_pstate (v : Half) (s : State) : (writeSiocnt v s).pstate = s.pstate := rfl
@[simp] theorem writeSiocnt_siodata (v : Half) (s : State) : (writeSiocnt v s).siodata = s.siodata := rfl
@[simp] theorem writeSiocnt_cmd (v : Half) (s : State) : (writeSiocnt v s).cmd = s.cmd := rfl
@[simp] theorem writeSiocnt_siocnt (v : Half) (s : State) : (writeSiocnt v s).siocnt = v := rfl
@[simp] theorem writeSiocnt_irqPending (v : Half) (s : State) : (writeSiocnt v s).irqPending = s.irqPending := rfl
@[simp] theorem writeSiocnt_txLog (v : Half) (s : State) : (writeSiocnt v s).txLog = s.txLog := rfl
@[simp] theorem writeSiocnt_violationLog (v : Half) (s : State) : (writeSiocnt v s).violationLog = s.violationLog := rfl
@[simp] theorem writeSiocnt_inputs (v : Half) (s : State) : (writeSiocnt v s).inputs = s.inputs := rfl
@[simp] theorem writeSiocnt_draws (v : Half) (s : State) : (writeSiocnt v s).draws = s.draws := rfl

@[simp] theorem writePstate_pstate (p : PState) (s : State) : (writePstate p s).pstate = p := rfl
@[simp] theorem writePstate_siodata (p : PState) (s : State) : (writePstate p s).siodata = s.siodata := rfl
@[simp] theorem writePstate_cmd (p : PState) (s : State) : (writePstate p s).cmd = s.cmd := rfl
@[simp] theorem writePstate_siocnt (p : PState) (s : State) : (writePstate p s).siocnt = s.siocnt := rfl
@[simp] theorem writePstate_irqPending (p : PState) (s : State) : (writePstate p s).irqPending = s.irqPending := rfl
@[simp] theorem writePstate_txLog (p : PState) (s : State) : (writePstate p s).txLog = s.txLog := rfl
@[simp] theorem writePstate_violationLog (p : PState) (s : State) : (writePstate p s).violationLog = s.violationLog := rfl
@[simp] theorem writePstate_inputs (p : PState) (s : State) : (writePstate p s).inputs = s.inputs := rfl
@[simp] theorem writePstate_draws (p : PState) (s : State) : (writePstate p s).draws = s.draws := rfl

@[simp] theorem writeCmd_pstate (v : Word) (s : State) : (writeCmd v s).pstate = s.pstate := rfl
@[simp] theorem writeCmd_siodata (v : Word) (s : State) : (writeCmd v s).siodata = s.siodata := rfl
@[simp] theorem writeCmd_cmd (v : Word) (s : State) : (writeCmd v s).cmd = v := rfl
@[simp] theorem writeCmd_siocnt (v : Word) (s : State) : (writeCmd v s).siocnt = s.siocnt := rfl
@[simp] theorem writeCmd_irqPending (v : Word) (s : State) : (writeCmd v s).irqPending = s.irqPending := rfl
@[simp] theorem writeCmd_txLog (v : Word) (s : State) : (writeCmd v s).txLog = s.txLog := rfl
@[simp] theorem writeCmd_violationLog (v : Word) (s : State) : (writeCmd v s).violationLog = s.violationLog := rfl
@[simp] theorem writeCmd_inputs (v : Word) (s : State) : (writeCmd v s).inputs = s.inputs := rfl
@[simp] theorem writeCmd_draws (v : Word) (s : State) : (writeCmd v s).draws = s.draws := rfl

@[simp] theorem writePending_pstate (b : Bool) (s : State) : (writePending b s).pstate = s.pstate := rfl
@[simp] theorem writePending_siodata (b : Bool) (s : State) : (writePending b s).siodata = s.siodata := rfl
@[simp] theorem writePending_cmd (b : Bool) (s : State) : (writePending b s).cmd = s.cmd := rfl
@[simp] theorem writePending_siocnt (b : Bool) (s : State) : (writePending b s).siocnt = s.siocnt := rfl
@[simp] theorem writePending_irqPending (b : Bool) (s : State) : (writePending b s).irqPending = b := rfl
@[simp] theorem writePending_txLog (b : Bool) (s : State) : (writePending b s).txLog = s.txLog := rfl
@[simp] theorem writePending_violationLog (b : Bool) (s : State) : (writePending b s).violationLog = s.violationLog := rfl
@[simp] theorem writePending_inputs (b : Bool) (s : State) : (writePending b s).inputs = s.inputs := rfl
@[simp] theorem writePending_draws (b : Bool) (s : State) : (writePending b s).draws = s.draws := rfl

@[simp] theorem emitTx_pstate (v : Word) (s : State) : (emitTx v s).pstate = s.pstate := rfl
@[simp] theorem emitTx_siodata (v : Word) (s : State) : (emitTx v s).siodata = s.siodata := rfl
@[simp] theorem emitTx_cmd (v : Word) (s : State) : (emitTx v s).cmd = s.cmd := rfl
@[simp] theorem emitTx_siocnt (v : Word) (s : State) : (emitTx v s).siocnt = s.siocnt := rfl
@[simp] theorem emitTx_irqPending (v : Word) (s : State) : (emitTx v s).irqPending = s.irqPending := rfl
@[simp] theorem emitTx_txLog (v : Word) (s : State) : (emitTx v s).txLog = s.txLog ++ [v] := rfl
@[simp] theorem emitTx_violationLog (v : Word) (s : State) : (emitTx v s).violationLog = s.violationLog := rfl
@[simp] theorem emitTx_inputs (v : Word) (s : State) : (emitTx v s).inputs = s.inputs := rfl
@[simp] theorem emitTx_draws (v : Word) (s : State) : (emitTx v s).draws = s.draws := rfl

@[simp] theorem logViolation_pstate (v : Violation) (s : State) : (logViolation v s).pstate = s.pstate := rfl
@[simp] theorem logViolation_siodata (v : Violation) (s : State) : (logViolation v s).siodata = s.siodata := rfl
@[simp] theorem logViolation_cmd (v : Violation) (s : State) : (logViolation v s).cmd = s.cmd := rfl
@[simp] theorem logViolation_siocnt (v : Violation) (s : State) : (logViolation v s).siocnt = s.siocnt := rfl
@[simp] theorem logViolation_irqPending (v : Violation) (s : State) : (logViolation v s).irqPending = s.irqPending := rfl
@[simp] theorem logViolation_txLog (v : Violation) (s : State) : (logViolation v s).txLog = s.txLog := rfl
@[simp] theorem logViolation_violationLog (v : Violation) (s : State) : (logViolation v s).violationLog = s.violationLog ++ [v] := rfl
@[simp] theorem logViolation_inputs (v : Violation) (s : State) : (logViolation v s).inputs = s.inputs := rfl
@[simp] theorem logViolation_draws (v : Violation) (s : State) : (logViolation v s).draws = s.draws := rfl

@[simp] theorem arm_pstate (s : State) : (arm s).pstate = s.pstate := rfl
@[simp] theorem arm_siodata (s : State) : (arm s).siodata = s.siodata := rfl
@[simp] theorem arm_cmd (s : State) : (arm s).cmd = s.cmd := rfl
@[simp] theorem arm_siocnt (s : State) : (arm s).siocnt = s.siocnt ||| 0x0080#16 := rfl
@[simp] theorem arm_irqPending (s : State) : (arm s).irqPending = s.irqPending := rfl
@[simp] theorem arm_txLog (s : State) : (arm s).txLog = s.txLog := rfl
@[simp] theorem arm_violationLog (s : State) : (arm s).violationLog = s.violationLog := rfl
@[simp] theorem arm_inputs (s : State) : (arm s).inputs = s.inputs := rfl
@[simp] theorem arm_draws (s : State) : (arm s).draws = s.draws := rfl

@[simp] theorem reply_pstate (v : Word) (s : State) : (reply v s).pstate = s.pstate := rfl
@[simp] theorem reply_siodata (v : Word) (s : State) : (reply v s).siodata = v := rfl
@[simp] theorem reply_cmd (v : Word) (s : State) : (reply v s).cmd = s.cmd := rfl
@[simp] theorem reply_siocnt (v : Word) (s : State) : (reply v s).siocnt = s.siocnt ||| 0x0080#16 := rfl
@[simp] theorem reply_irqPending (v : Word) (s : State) : (reply v s).irqPending = s.irqPending := rfl
@[simp] theorem reply_txLog (v : Word) (s : State) : (reply v s).txLog = s.txLog := rfl
@[simp] theorem reply_violationLog (v : Word) (s : State) : (reply v s).violationLog = s.violationLog := rfl
@[simp] theorem reply_inputs (v : Word) (s : State) : (reply v s).inputs = s.inputs := rfl
@[simp] theorem reply_draws (v : Word) (s : State) : (reply v s).draws = s.draws := rfl

@[simp] theorem protocolViolation_pstate (c : ViolationClass) (s : State) : (protocolViolation c s).pstate = .hs0 := rfl
@[simp] theorem protocolViolation_siodata (c : ViolationClass) (s : State) : (protocolViolation c s).siodata = s.siodata := rfl
@[simp] theorem protocolViolation_cmd (c : ViolationClass) (s : State) : (protocolViolation c s).cmd = s.cmd := rfl
@[simp] theorem protocolViolation_siocnt (c : ViolationClass) (s : State) : (protocolViolation c s).siocnt = s.siocnt := rfl
@[simp] theorem protocolViolation_irqPending (c : ViolationClass) (s : State) : (protocolViolation c s).irqPending = s.irqPending := rfl
@[simp] theorem protocolViolation_txLog (c : ViolationClass) (s : State) : (protocolViolation c s).txLog = s.txLog := rfl
@[simp] theorem protocolViolation_violationLog (c : ViolationClass) (s : State) : (protocolViolation c s).violationLog = s.violationLog ++ [⟨c, s.siodata⟩] := rfl
@[simp] theorem protocolViolation_inputs (c : ViolationClass) (s : State) : (protocolViolation c s).inputs = s.inputs := rfl
@[simp] theorem protocolViolation_draws (c : ViolationClass) (s : State) : (protocolViolation c s).draws = s.draws := rfl

end Sys2Proof.Machine
end

