-- ==== Sys2Proof/Laws/Words.lean ====
section
/-! SUPPORT. The halves of a word and the row tests: what joining, splitting and masking give. -/

namespace Sys2Proof

/-- `hi ++ lo` of R11 is the two halves side by side. -/
theorem joinHalves_eq_append (hi lo : Half) : joinHalves hi lo = hi ++ lo := by
  apply BitVec.eq_of_getLsbD_eq
  intro i hi32
  simp only [joinHalves, zext32, BitVec.getLsbD_or, BitVec.getLsbD_shiftLeft, BitVec.getLsbD_setWidth,
    BitVec.getLsbD_append]
  by_cases h : i < 16
  · simp [h, hi32]
  · have : i - 16 < 32 := by omega
    simp [h, hi32, this, BitVec.getLsbD_of_ge lo i (by omega)]

@[simp] theorem low16_append (hi lo : Half) : low16 (hi ++ lo) = lo := by
  apply BitVec.eq_of_getLsbD_eq
  intro i h
  rw [low16, BitVec.getLsbD_extractLsb', Nat.zero_add]
  simp only [h, decide_true, Bool.true_and]
  exact (BitVec.getLsbD_append (x := hi) (y := lo)).trans (by simp [h])

@[simp] theorem high16_append (hi lo : Half) : high16 (hi ++ lo) = hi := by
  apply BitVec.eq_of_getLsbD_eq
  intro i h
  rw [high16, BitVec.getLsbD_extractLsb']
  simp only [h, decide_true, Bool.true_and]
  exact (BitVec.getLsbD_append (x := hi) (y := lo)).trans (by simp)

@[simp] theorem low16_joinHalves (hi lo : Half) : low16 (joinHalves hi lo) = lo := by
  rw [joinHalves_eq_append, low16_append]

@[simp] theorem high16_joinHalves (hi lo : Half) : high16 (joinHalves hi lo) = hi := by
  rw [joinHalves_eq_append, high16_append]

/-- A word is its two halves. -/
@[simp] theorem high16_append_low16 (w : Word) : high16 w ++ low16 w = w := by
  apply BitVec.eq_of_getLsbD_eq
  intro i h
  rw [BitVec.getLsbD_append]
  by_cases hl : i < 16
  · simp [low16, hl]
  · have h1 : i - 16 < 16 := by omega
    have h2 : 16 + (i - 16) = i := by omega
    simp [high16, hl, h1, h2]

@[simp] theorem joinHalves_high16_low16 (w : Word) : joinHalves (high16 w) (low16 w) = w := by
  rw [joinHalves_eq_append, high16_append_low16]

/-- Two words are equal when their halves are. -/
theorem word_eq_iff (v w : Word) : v = w ↔ high16 v = high16 w ∧ low16 v = low16 w := by
  constructor
  · rintro rfl
    exact ⟨rfl, rfl⟩
  · rintro ⟨hh, hl⟩
    rw [← high16_append_low16 v, hh, hl, high16_append_low16]

/-- The test of a row whose mask is all ones compares the whole word. -/
@[simp] theorem rowSelects_all (m w : Word) : rowSelects m 0xFFFFFFFF#32 w = (w == m) := by
  have h : w &&& 0xFFFFFFFF#32 = w := by
    have := BitVec.and_allOnes (x := w)
    simpa using this
  simp [rowSelects, h]

/-- The test of a row whose mask is the low half compares the key field. -/
theorem rowSelects_low (k : Half) (w : Word) :
    rowSelects (k.setWidth 32) 0x0000FFFF#32 w = (low16 w == k) := by
  have h : w &&& 0x0000FFFF#32 = (low16 w).setWidth 32 := by
    apply BitVec.eq_of_getLsbD_eq
    intro i hi
    have hm : (0x0000FFFF#32).getLsbD i = decide (i < 16) := by
      revert i
      decide
    rw [BitVec.getLsbD_and, hm, BitVec.getLsbD_setWidth, low16, BitVec.getLsbD_extractLsb',
      Nat.zero_add, decide_eq_true hi, Bool.true_and, Bool.and_comm]
  rw [rowSelects, h, Bool.eq_iff_iff, beq_iff_eq, beq_iff_eq]
  constructor
  · intro e
    have := congrArg (BitVec.setWidth 16) e
    simpa using this
  · rintro rfl
    rfl

/-- The test of a row whose mask is zero takes every word. -/
@[simp] theorem rowSelects_none (w : Word) : rowSelects 0x00000000#32 0x00000000#32 w = true := by
  simp [rowSelects]

/-- The key tests of the four `*_NAK` rows. -/
@[simp] theorem rowSelects_key0 (w : Word) :
    rowSelects 0x0000494E#32 0x0000FFFF#32 w = (low16 w == 0x494E#16) := rowSelects_low 0x494E#16 w
@[simp] theorem rowSelects_key1 (w : Word) :
    rowSelects 0x0000544E#32 0x0000FFFF#32 w = (low16 w == 0x544E#16) := rowSelects_low 0x544E#16 w
@[simp] theorem rowSelects_key2 (w : Word) :
    rowSelects 0x00004E45#32 0x0000FFFF#32 w = (low16 w == 0x4E45#16) := rowSelects_low 0x4E45#16 w
@[simp] theorem rowSelects_key3 (w : Word) :
    rowSelects 0x00004F44#32 0x0000FFFF#32 w = (low16 w == 0x4F44#16) := rowSelects_low 0x4F44#16 w

end Sys2Proof
end

