-- ==== Sys2Proof/Laws/Ops.lean ====
section
/-! SUPPORT. For each shared operation, once, everything it can do. -/

namespace Sys2Proof.Machine

/-- `ARM()` sets bit 7 and changes nothing else. -/
theorem arm_eq (s : State) : arm s = { s with siocnt := s.siocnt ||| 0x0080#16 } := rfl

/-- What `REPLY` leaves after the interrupt is taken and the state written. -/
theorem reply_of_writePstate (s : State) (p : PState) (v : Word) :
    reply v (writePstate p (writePending false s)) = s.replied p v := rfl

/-- What `REPLY` leaves where the state is not written. -/
theorem reply_of_held (s : State) (v : Word) :
    reply v (writePending false s) = s.replied s.pstate v := rfl

/-- What a violation leaves. -/
theorem protocolViolation_of_entered (s : State) (c : ViolationClass) :
    protocolViolation c (writePending false s) = s.violated c := rfl

/-- What a transfer leaves. -/
theorem completeTransfer_eq (w : Word) (s : State) :
    completeTransfer w s = { s with
      txLog := s.txLog ++ [s.siodata], siodata := w, siocnt := s.siocnt &&& 0xFF7F#16,
      irqPending := true } := rfl

/-- A row is enabled when its word waits in its state and its condition holds. -/
theorem rowEnabled_iff {p : PState} {v : Word} {g : Word → Bool} {s : State} :
    rowEnabled p v g s = true ↔ s.Waiting p v ∧ g v = true := by
  simp only [rowEnabled, State.Waiting, Bool.and_eq_true, beq_iff_eq, readPstate_eq, readSiodata_eq]
  constructor
  · rintro ⟨⟨⟨h1, h2⟩, h3⟩, h4⟩
    exact ⟨⟨h1, h2, h3⟩, h3 ▸ h4⟩
  · rintro ⟨⟨h1, h2, h3⟩, h4⟩
    exact ⟨⟨⟨h1, h2⟩, h3⟩, h3.symm ▸ h4⟩

/-- An interrupt operation whose row is selected completes. -/
theorem interruptStep_of_waiting {p : PState} {v : Word} {g : Word → Bool}
    {body : Word → State → State} {s : State} (h : s.Waiting p v) (hg : g v = true) :
    interruptStep p v g body s = .next (body v (writePending false s)) := by
  rw [interruptStep, if_pos (rowEnabled_iff.mpr ⟨h, hg⟩), readSiodata_eq, h.2.2]

/-- An interrupt operation completes exactly when its row is the one selected. -/
theorem interruptStep_next_iff {p : PState} {v : Word} {g : Word → Bool} {body : Word → State → State}
    {s t : State} :
    interruptStep p v g body s = .next t ↔
      s.Waiting p v ∧ g v = true ∧ t = body v (writePending false s) := by
  constructor
  · intro e
    by_cases h : rowEnabled p v g s = true
    · obtain ⟨hw, hg⟩ := rowEnabled_iff.mp h
      rw [interruptStep_of_waiting hw hg] at e
      cases e
      exact ⟨hw, hg, rfl⟩
    · rw [interruptStep, if_neg h] at e
      cases e
  · rintro ⟨hw, hg, rfl⟩
    exact interruptStep_of_waiting hw hg

/-- An interrupt operation that does not complete is refused as not selected. -/
theorem interruptStep_cases (p : PState) (v : Word) (g : Word → Bool) (body : Word → State → State)
    (s : State) :
    (∃ t, interruptStep p v g body s = .next t) ∨
      interruptStep p v g body s = .refused .notSelected := by
  by_cases h : rowEnabled p v g s = true
  · exact .inl ⟨_, if_pos h⟩
  · exact .inr (if_neg h)

/-- With no interrupt pending an interrupt operation is refused. -/
theorem interruptStep_idle {p : PState} {v : Word} {g : Word → Bool} {body : Word → State → State}
    {s : State} (h : s.irqPending = false) :
    interruptStep p v g body s = .refused .notSelected := by
  simp [interruptStep, rowEnabled, h]

/-- A `HOST` operation completes exactly when no interrupt is pending. -/
theorem hostStep_next_iff {body : State → State} {s t : State} :
    hostStep body s = .next t ↔ s.irqPending = false ∧ t = body s := by
  unfold hostStep
  cases h : s.irqPending <;> simp [eq_comm]

/-- A transfer completes exactly when it is armed and no interrupt is pending. -/
theorem linkStep_next_iff {body : State → State} {s t : State} :
    linkStep body s = .next t ↔
      s.irqPending = false ∧ startFlag s.siocnt = true ∧ t = body s := by
  unfold linkStep
  cases h : s.irqPending <;> cases h' : startFlag s.siocnt <;> simp [h', eq_comm]

/-- What a pending interrupt makes the machine do. -/
theorem fetch_pending {s : State} (h : s.irqPending = true) :
    fetch s = .word (.irq s.pstate) s.siodata s := by
  simp [fetch, h]

/-- What the next request makes the machine do. -/
theorem fetch_request {s : State} {i : Input} {rest : List Input} (h : s.irqPending = false)
    (hi : s.inputs = i :: rest) : fetch s = fetchInput i { s with inputs := rest } := by
  simp [fetch, h, hi]

/-- What the machine does when nothing is requested: an enabled step of the environment. -/
theorem fetch_drawn {s : State} (h : s.irqPending = false) (hi : s.inputs = []) :
    (startFlag s.siocnt = true ∧
      fetch s = .word .link (Config.freeWord s.draws) { s with draws := s.draws + 1 }) ∨
    (∃ op, fetch s = .word .host (hostWord op) { s with draws := s.draws + 1 }) := by
  cases hl : (Config.freeLink s.draws && startFlag s.siocnt) with
  | true =>
    simp only [Bool.and_eq_true] at hl
    exact .inl ⟨hl.2, by simp [fetch, fetchDraw, h, hi, hl.1, hl.2]⟩
  | false =>
    have hl' : (Config.freeLink s.draws && startFlag (readSiocnt s)) = false := hl
    refine .inr ⟨drawnHostOp (Config.freeHost s.draws), ?_⟩
    simp only [fetch, fetchDraw, h, hi, hl']
    simp

/-- The word of a `HOST` operation decodes to that operation. -/
@[simp] theorem decodeHost_hostWord (op : HostOp) : decodeHost (hostWord op) = .ok (hostInstr op) := by
  cases op <;> decide

/-- A `HOST` request decodes to the operation of one of the four `HostOp`s. -/
theorem decodeHost_ok {w : Word} {i : Instr} (h : decodeHost w = .ok i) : ∃ op, i = hostInstr op := by
  unfold decodeHost at h
  split_ifs at h
  · exact ⟨.setStart, by cases h; rfl⟩
  · exact ⟨.setStop, by cases h; rfl⟩
  · exact ⟨.setHardStop, by cases h; rfl⟩
  · exact ⟨.update, by cases h; rfl⟩

end Sys2Proof.Machine
end

