-- ==== Sys2Proof/Laws/Bus.lean ====
section
/-! SUPPORT. What an access of the register interface reaches, for any two distinct addresses. -/

namespace Sys2Proof.Machine

@[simp] theorem registerAt_siodata (m : SerialAddrs) : registerAt m m.siodata = some .siodata := if_pos rfl

@[simp] theorem registerAt_siocnt (m : SerialAddrs) : registerAt m m.siocnt = some .siocnt := by
  rw [registerAt, if_neg m.distinct.symm, if_pos rfl]

/-- An address that is neither register's names none. -/
theorem registerAt_other {m : SerialAddrs} {addr : Nat} (h : addr ≠ m.siodata) (h' : addr ≠ m.siocnt) :
    registerAt m addr = none := by
  rw [registerAt, if_neg h, if_neg h']

/-- At `SIODATA`'s address an access reaches the register or is a partial one. -/
theorem busRegister_siodata (m : SerialAddrs) (n : Nat) :
    busRegister m m.siodata n = if n = 4 then .ok .siodata else .error .partialAccess := by
  simp only [busRegister, registerAt_siodata]
  rfl

/-- At `SIOCNT`'s address an access reaches the register or is a partial one. -/
theorem busRegister_siocnt (m : SerialAddrs) (n : Nat) :
    busRegister m m.siocnt n = if n = 2 then .ok .siocnt else .error .partialAccess := by
  simp only [busRegister, registerAt_siocnt]
  rfl

/-- Off both addresses an access is partial where it touches a register, else outside the block. -/
theorem busRegister_other {m : SerialAddrs} {addr n : Nat} (h : addr ≠ m.siodata) (h' : addr ≠ m.siocnt) :
    busRegister m addr n =
      if touches m.siodata 4 addr n || touches m.siocnt 2 addr n then .error .partialAccess
      else .error .outsideBlock := by
  simp only [busRegister, registerAt_other h h']
  rfl

theorem touches_iff {base width addr n : Nat} :
    touches base width addr n = true ↔ 0 < n ∧ addr < base + width ∧ base < addr + n := by
  simp only [touches, Bool.and_eq_true, decide_eq_true_eq, and_assoc]

end Sys2Proof.Machine
end

