-- ==== Sys2Proof/Laws/Exec.lean ====
section
/-! SUPPORT. What `exec` can do, said once: a completed operation replies, violates, is an operation of
the main loop, or is a transfer. -/

namespace Sys2Proof.Machine

/-! What each operation is, over the shared operations: the dispatch and the meaning unfolded once. -/

theorem exec_hs0Ack (s : State) : exec .hs0Ack s =
    interruptStep .hs0 (fullWord 0) (fullMatch 0)
      (fun w t => reply (ackReply w (key 1)) (writePstate .hs1 t)) s := rfl
theorem exec_hs0Nak (chk : Half) (s : State) : exec (.hs0Nak chk) s =
    interruptStep .hs0 (joinHalves chk (key 0)) (keyOnlyMatch 0)
      (fun _ t => reply (nakReply (key 0)) t) s := rfl
theorem exec_hs0Rst (chk keyf : Half) (s : State) : exec (.hs0Rst chk keyf) s =
    interruptStep .hs0 (joinHalves chk keyf) (keyMismatch 0) (fun _ t => protocolViolation .vKey t) s := rfl
theorem exec_hs1Ack (s : State) : exec .hs1Ack s =
    interruptStep .hs1 (fullWord 1) (fullMatch 1)
      (fun w t => reply (ackReply w (key 2)) (writePstate .hs2 t)) s := rfl
theorem exec_hs1Nak (chk : Half) (s : State) : exec (.hs1Nak chk) s =
    interruptStep .hs1 (joinHalves chk (key 1)) (keyOnlyMatch 1)
      (fun _ t => reply (nakReply (key 1)) t) s := rfl
theorem exec_hs1Rst (chk keyf : Half) (s : State) : exec (.hs1Rst chk keyf) s =
    interruptStep .hs1 (joinHalves chk keyf) (keyMismatch 1) (fun _ t => protocolViolation .vKey t) s := rfl
theorem exec_hs2Ack (s : State) : exec .hs2Ack s =
    interruptStep .hs2 (fullWord 2) (fullMatch 2)
      (fun w t => reply (ackReply w (key 3)) (writePstate .hs3 t)) s := rfl
theorem exec_hs2Nak (chk : Half) (s : State) : exec (.hs2Nak chk) s =
    interruptStep .hs2 (joinHalves chk (key 2)) (keyOnlyMatch 2)
      (fun _ t => reply (nakReply (key 2)) t) s := rfl
theorem exec_hs2Rst (chk keyf : Half) (s : State) : exec (.hs2Rst chk keyf) s =
    interruptStep .hs2 (joinHalves chk keyf) (keyMismatch 2) (fun _ t => protocolViolation .vKey t) s := rfl
theorem exec_hs3Ack (s : State) : exec .hs3Ack s =
    interruptStep .hs3 (fullWord 3) (fullMatch 3) (fun _ t => reply som (writePstate .mg1 t)) s := rfl
theorem exec_hs3Nak (chk : Half) (s : State) : exec (.hs3Nak chk) s =
    interruptStep .hs3 (joinHalves chk (key 3)) (keyOnlyMatch 3)
      (fun _ t => reply (nakReply (key 3)) t) s := rfl
theorem exec_hs3Rst (chk keyf : Half) (s : State) : exec (.hs3Rst chk keyf) s =
    interruptStep .hs3 (joinHalves chk keyf) (keyMismatch 3) (fun _ t => protocolViolation .vKey t) s := rfl
theorem exec_mg1Ok (s : State) : exec .mg1Ok s =
    interruptStep .mg1 (magic 0) (magicMatch 0) (fun _ t => reply (magic 1) (writePstate .mg2 t)) s := rfl
theorem exec_mg1Rst (lit : Word) (s : State) : exec (.mg1Rst lit) s =
    interruptStep .mg1 lit (magicMismatch 0) (fun _ t => protocolViolation .vMagic t) s := rfl
theorem exec_mg2Ok (s : State) : exec .mg2Ok s =
    interruptStep .mg2 (magic 1) (magicMatch 1) (fun _ t => reply (magic 2) (writePstate .mg3 t)) s := rfl
theorem exec_mg2Rst (lit : Word) (s : State) : exec (.mg2Rst lit) s =
    interruptStep .mg2 lit (magicMismatch 1) (fun _ t => protocolViolation .vMagic t) s := rfl
theorem exec_mg3Ok (s : State) : exec .mg3Ok s =
    interruptStep .mg3 (magic 2) (magicMatch 2)
      (fun _ t => reply (magic 3) (writePstate .sendData t)) s := rfl
theorem exec_mg3Rst (lit : Word) (s : State) : exec (.mg3Rst lit) s =
    interruptStep .mg3 lit (magicMismatch 2) (fun _ t => protocolViolation .vMagic t) s := rfl
theorem exec_sdPoll (s : State) : exec .sdPoll s =
    interruptStep .sendData poll pollMatch (fun _ t => reply (readCmd t) t) s := rfl
theorem exec_sdRst (lit : Word) (s : State) : exec (.sdRst lit) s =
    interruptStep .sendData lit pollMismatch (fun _ t => protocolViolation .vPoll t) s := rfl
theorem exec_setStart (s : State) : exec .setStart s =
    hostStep (writeCmd cStart) s := rfl
theorem exec_setStop (s : State) : exec .setStop s =
    hostStep (writeCmd cStop) s := rfl
theorem exec_setHardStop (s : State) : exec .setHardStop s =
    hostStep (writeCmd cHardStop) s := rfl
theorem exec_update (s : State) : exec .update s =
    hostStep arm s := rfl
theorem exec_xfer (w : Word) (s : State) : exec (.xfer w) s =
    linkStep (completeTransfer w) s := rfl

/-- The effect of a `HOST` operation. -/
def hostEffect : HostOp → State → State
  | .setStart, s => { s with cmd := 0x40000026#32 }
  | .setStop, s => { s with cmd := 0x40000004#32 }
  | .setHardStop, s => { s with cmd := 0x40000015#32 }
  | .update, s => { s with siocnt := s.siocnt ||| 0x0080#16 }

/-- A `HOST` operation completes, with its effect, exactly when no interrupt is pending. -/
theorem exec_hostInstr_iff {op : HostOp} {s t : State} :
    exec (hostInstr op) s = .next t ↔ s.irqPending = false ∧ t = hostEffect op s := by
  cases op <;> exact hostStep_next_iff

/-- A transfer completes exactly when it is armed with no interrupt pending. -/
theorem exec_xfer_iff {w : Word} {s t : State} :
    exec (.xfer w) s = .next t ↔
      s.irqPending = false ∧ startFlag s.siocnt = true ∧ t = completeTransfer w s :=
  linkStep_next_iff

/-- A completed operation is a reply of an interrupt step, a violation, a `HOST` operation, or a
transfer. -/
theorem exec_next_cases {i : Instr} {s t : State} (h : exec i s = .next t) :
    (i.isReplying = true ∧ s.irqPending = true ∧ ∃ p v, t = s.replied p v ∧
        (p = s.pstate ∨ successor s.pstate = some p) ∧
        (v ∈ constantReplies ∨ (s.Waiting .sendData poll ∧ v = s.cmd))) ∨
      (i.isReset = true ∧ s.irqPending = true ∧ ∃ c, t = s.violated c) ∨
      (∃ op, i = hostInstr op ∧ s.irqPending = false ∧ t = hostEffect op s) ∨
      (∃ w, i = .xfer w ∧ s.irqPending = false ∧ startFlag s.siocnt = true ∧
        t = completeTransfer w s) := by
  cases i
  case hs0Ack | hs1Ack | hs2Ack | hs3Ack =>
    simp only [exec_hs0Ack, exec_hs1Ack, exec_hs2Ack, exec_hs3Ack, interruptStep_next_iff,
      reply_of_writePstate] at h
    obtain ⟨⟨hp, hs, -⟩, -, rfl⟩ := h
    exact .inl ⟨rfl, hp, _, _, rfl, .inr (by rw [hs]; rfl), .inl (by decide)⟩
  case hs0Nak | hs1Nak | hs2Nak | hs3Nak =>
    simp only [exec_hs0Nak, exec_hs1Nak, exec_hs2Nak, exec_hs3Nak, interruptStep_next_iff, reply_of_held] at h
    obtain ⟨⟨hp, hs, -⟩, -, rfl⟩ := h
    exact .inl ⟨rfl, hp, _, _, rfl, .inl rfl, .inl (by decide)⟩
  case mg1Ok | mg2Ok | mg3Ok =>
    simp only [exec_mg1Ok, exec_mg2Ok, exec_mg3Ok, interruptStep_next_iff, reply_of_writePstate] at h
    obtain ⟨⟨hp, hs, -⟩, -, rfl⟩ := h
    exact .inl ⟨rfl, hp, _, _, rfl, .inr (by rw [hs]; rfl), .inl (by decide)⟩
  case sdPoll =>
    simp only [exec_sdPoll, interruptStep_next_iff, reply_of_held, readCmd_eq, writePending_cmd] at h
    obtain ⟨hw, -, rfl⟩ := h
    exact .inl ⟨rfl, hw.1, _, _, rfl, .inl rfl, .inr ⟨hw, rfl⟩⟩
  case hs0Rst | hs1Rst | hs2Rst | hs3Rst | mg1Rst | mg2Rst | mg3Rst | sdRst =>
    simp only [exec_hs0Rst, exec_hs1Rst, exec_hs2Rst, exec_hs3Rst, exec_mg1Rst, exec_mg2Rst, exec_mg3Rst, exec_sdRst, interruptStep_next_iff, protocolViolation_of_entered] at h
    obtain ⟨⟨hp, -, -⟩, -, rfl⟩ := h
    exact .inr (.inl ⟨rfl, hp, _, rfl⟩)
  case setStart => exact .inr (.inr (.inl ⟨.setStart, rfl, hostStep_next_iff.mp h⟩))
  case setStop => exact .inr (.inr (.inl ⟨.setStop, rfl, hostStep_next_iff.mp h⟩))
  case setHardStop => exact .inr (.inr (.inl ⟨.setHardStop, rfl, hostStep_next_iff.mp h⟩))
  case update => exact .inr (.inr (.inl ⟨.update, rfl, hostStep_next_iff.mp h⟩))
  case xfer w => exact .inr (.inr (.inr ⟨w, rfl, linkStep_next_iff.mp h⟩))

/-- What a step can do: with an interrupt pending it performs the operation the received word selects;
otherwise it performs an operation of `HOST` or `LINK` on the state whose request or draw was taken. -/
theorem step_next_cases {s t : State} (h : step s = .next t) :
    (s.irqPending = true ∧ exec (decodeIrq s.pstate s.siodata) s = .next t) ∨
      (s.irqPending = false ∧ ∃ (l : List Input) (n : Nat),
        ((∃ op, exec (hostInstr op) { s with inputs := l, draws := n } = .next t) ∨
          ∃ w, exec (.xfer w) { s with inputs := l, draws := n } = .next t)) := by
  rcases Bool.eq_false_or_eq_true s.irqPending with hp | hp
  · left
    rw [step, fetch_pending hp] at h
    exact ⟨hp, h⟩
  · right
    refine ⟨hp, ?_⟩
    rw [step] at h
    cases hi : s.inputs with
    | nil =>
      rcases fetch_drawn hp hi with ⟨-, hf⟩ | ⟨op, hf⟩
      · simp only [hf, decode] at h
        exact ⟨s.inputs, s.draws + 1, .inr ⟨_, h⟩⟩
      · simp only [hf, decode, decodeHost_hostWord] at h
        exact ⟨s.inputs, s.draws + 1, .inl ⟨op, h⟩⟩
    | cons i rest =>
      rw [fetch_request hp hi] at h
      cases i with
      | host w =>
        simp only [fetchInput, decode] at h
        cases hd : decodeHost w with
        | ok i =>
          simp only [hd] at h
          obtain ⟨op, rfl⟩ := decodeHost_ok hd
          exact ⟨rest, s.draws, .inl ⟨op, h⟩⟩
        | error e =>
          simp only [hd] at h
          cases h
      | link w =>
        simp only [fetchInput, decode] at h
        exact ⟨rest, s.draws, .inr ⟨w, h⟩⟩
      | hostAccess a =>
        simp only [fetchInput] at h
        cases h

/-- What a completed step leaves: the two cases above put together. -/
theorem step_next_kinds {s t : State} (h : step s = .next t) :
    (s.irqPending = true ∧ ∃ p v, t = s.replied p v ∧
        (p = s.pstate ∨ successor s.pstate = some p) ∧
        (v ∈ constantReplies ∨ (s.Waiting .sendData poll ∧ v = s.cmd))) ∨
      (s.irqPending = true ∧ ∃ c, t = s.violated c) ∨
      (s.irqPending = false ∧ ∃ l n op, t = hostEffect op { s with inputs := l, draws := n }) ∨
      (s.irqPending = false ∧ startFlag s.siocnt = true ∧
        ∃ l n w, t = completeTransfer w { s with inputs := l, draws := n }) := by
  rcases step_next_cases h with ⟨hp, h⟩ | ⟨hp, l, n, ⟨op, h⟩ | ⟨w, h⟩⟩
  · rcases exec_next_cases h with ⟨-, -, h⟩ | ⟨-, -, h⟩ | ⟨-, -, hf, -⟩ | ⟨-, -, hf, -⟩
    · exact .inl ⟨hp, h⟩
    · exact .inr (.inl ⟨hp, h⟩)
    · rw [hp] at hf
      cases hf
    · rw [hp] at hf
      cases hf
  · exact .inr (.inr (.inl ⟨hp, l, n, op, (exec_hostInstr_iff.mp h).2⟩))
  · obtain ⟨-, hs, h⟩ := exec_xfer_iff.mp h
    exact .inr (.inr (.inr ⟨hp, hs, l, n, w, h⟩))

end Sys2Proof.Machine
end

