-- ==== Sys2Proof/Laws/Flags.lean ====
section
/-! SUPPORT. What setting and clearing `START` does to the bits of `SIOCNT`. -/

namespace Sys2Proof.Machine

theorem withStart_eq (v : Half) : withStart v = v ||| 0x0080#16 := rfl

theorem withoutStart_eq (v : Half) : withoutStart v = v &&& 0xFF7F#16 := rfl

/-- Bit `n` of the mask of `START`. -/
theorem startMask_getLsbD (n : Nat) : (0x0080#16).getLsbD n = decide (n = 7) := by
  by_cases h : n < 16
  · interval_cases n <;> rfl
  · rw [BitVec.getLsbD_of_ge _ n (by omega)]
    simp only [Bool.false_eq, decide_eq_false_iff_not]
    omega

/-- Bit `n` of the complement of the mask of `START`. -/
theorem notStartMask_getLsbD (n : Nat) : (0xFF7F#16).getLsbD n = (decide (n < 16) && decide (n ≠ 7)) := by
  by_cases h : n < 16
  · interval_cases n <;> rfl
  · rw [BitVec.getLsbD_of_ge _ n (by omega)]
    simp [h]

@[simp] theorem startFlag_withStart (v : Half) : startFlag (v ||| 0x0080#16) = true := by
  rw [startFlag, BitVec.getLsbD_or, startMask_getLsbD]
  simp

@[simp] theorem startFlag_withoutStart (v : Half) : startFlag (v &&& 0xFF7F#16) = false := by
  rw [startFlag, BitVec.getLsbD_and, notStartMask_getLsbD]
  simp

/-- Setting `START` keeps every other bit. -/
theorem getLsbD_withStart (v : Half) {n : Nat} (h : n ≠ 7) :
    (v ||| 0x0080#16).getLsbD n = v.getLsbD n := by
  rw [BitVec.getLsbD_or, startMask_getLsbD]
  simp [h]

/-- Clearing `START` keeps every other bit. -/
theorem getLsbD_withoutStart (v : Half) {n : Nat} (h : n ≠ 7) :
    (v &&& 0xFF7F#16).getLsbD n = v.getLsbD n := by
  rw [BitVec.getLsbD_and, notStartMask_getLsbD]
  by_cases hn : n < 16
  · simp [h, hn]
  · rw [BitVec.getLsbD_of_ge v n (by omega)]
    rfl

/-- Setting `START` where it is set changes nothing. -/
theorem withStart_of_startFlag {v : Half} (h : startFlag v = true) : v ||| 0x0080#16 = v := by
  apply BitVec.eq_of_getLsbD_eq
  intro n _
  by_cases hn : n = 7
  · subst hn
    exact (startFlag_withStart v).trans h.symm
  · exact getLsbD_withStart v hn

@[simp] theorem modeBits_withStart (v : Half) : modeBits (v ||| 0x0080#16) = modeBits v := by
  apply BitVec.eq_of_getLsbD_eq
  intro n _
  by_cases hn : n = 7
  · subst hn
    exact (startFlag_withoutStart _).trans (startFlag_withoutStart v).symm
  · rw [modeBits, modeBits, getLsbD_withoutStart _ hn, getLsbD_withoutStart _ hn, getLsbD_withStart _ hn]

@[simp] theorem modeBits_withoutStart (v : Half) : modeBits (v &&& 0xFF7F#16) = modeBits v := by
  rw [modeBits, modeBits, BitVec.and_assoc, BitVec.and_self]

end Sys2Proof.Machine
end

