-- ==== Sys2Proof/Laws/PerInstr.lean ====
section
/-! SUPPORT. One lemma per operation: the word it is encoded as passes the test of its own row in
spec/opcode_table.json, in that row's state. -/

namespace Sys2Proof.Laws

/-- Every decode row of the operation's mnemonic takes its encoded word, in the row's state. -/
def EncodedWordFitsRow.Statement (i : Instr) : Prop :=
  ∀ r ∈ decodeRows, r.mnemonic = i.mnemonic →
    (encode i).1 = .irq r.state ∧ rowSelects r.rowMatch r.rowMask (encode i).2 = true

theorem EncodedWordFitsRow.hs0Ack : EncodedWordFitsRow.Statement .hs0Ack := by
  intro r hr hm
  fin_cases hr <;> revert hm <;> decide

theorem EncodedWordFitsRow.hs0Nak (chk : Half) : EncodedWordFitsRow.Statement (.hs0Nak chk) := by
  intro r hr hm
  fin_cases hr <;> simp_all [Instr.mnemonic, encode, key]

theorem EncodedWordFitsRow.hs0Rst (chk keyf : Half) : EncodedWordFitsRow.Statement (.hs0Rst chk keyf) := by
  intro r hr hm
  fin_cases hr <;> simp_all [Instr.mnemonic, encode]

theorem EncodedWordFitsRow.hs1Ack : EncodedWordFitsRow.Statement .hs1Ack := by
  intro r hr hm
  fin_cases hr <;> revert hm <;> decide

theorem EncodedWordFitsRow.hs1Nak (chk : Half) : EncodedWordFitsRow.Statement (.hs1Nak chk) := by
  intro r hr hm
  fin_cases hr <;> simp_all [Instr.mnemonic, encode, key]

theorem EncodedWordFitsRow.hs1Rst (chk keyf : Half) : EncodedWordFitsRow.Statement (.hs1Rst chk keyf) := by
  intro r hr hm
  fin_cases hr <;> simp_all [Instr.mnemonic, encode]

theorem EncodedWordFitsRow.hs2Ack : EncodedWordFitsRow.Statement .hs2Ack := by
  intro r hr hm
  fin_cases hr <;> revert hm <;> decide

theorem EncodedWordFitsRow.hs2Nak (chk : Half) : EncodedWordFitsRow.Statement (.hs2Nak chk) := by
  intro r hr hm
  fin_cases hr <;> simp_all [Instr.mnemonic, encode, key]

theorem EncodedWordFitsRow.hs2Rst (chk keyf : Half) : EncodedWordFitsRow.Statement (.hs2Rst chk keyf) := by
  intro r hr hm
  fin_cases hr <;> simp_all [Instr.mnemonic, encode]

theorem EncodedWordFitsRow.hs3Ack : EncodedWordFitsRow.Statement .hs3Ack := by
  intro r hr hm
  fin_cases hr <;> revert hm <;> decide

theorem EncodedWordFitsRow.hs3Nak (chk : Half) : EncodedWordFitsRow.Statement (.hs3Nak chk) := by
  intro r hr hm
  fin_cases hr <;> simp_all [Instr.mnemonic, encode, key]

theorem EncodedWordFitsRow.hs3Rst (chk keyf : Half) : EncodedWordFitsRow.Statement (.hs3Rst chk keyf) := by
  intro r hr hm
  fin_cases hr <;> simp_all [Instr.mnemonic, encode]

theorem EncodedWordFitsRow.mg1Ok : EncodedWordFitsRow.Statement .mg1Ok := by
  intro r hr hm
  fin_cases hr <;> revert hm <;> decide

theorem EncodedWordFitsRow.mg1Rst (lit : Word) : EncodedWordFitsRow.Statement (.mg1Rst lit) := by
  intro r hr hm
  fin_cases hr <;> simp_all [Instr.mnemonic, encode]

theorem EncodedWordFitsRow.mg2Ok : EncodedWordFitsRow.Statement .mg2Ok := by
  intro r hr hm
  fin_cases hr <;> revert hm <;> decide

theorem EncodedWordFitsRow.mg2Rst (lit : Word) : EncodedWordFitsRow.Statement (.mg2Rst lit) := by
  intro r hr hm
  fin_cases hr <;> simp_all [Instr.mnemonic, encode]

theorem EncodedWordFitsRow.mg3Ok : EncodedWordFitsRow.Statement .mg3Ok := by
  intro r hr hm
  fin_cases hr <;> revert hm <;> decide

theorem EncodedWordFitsRow.mg3Rst (lit : Word) : EncodedWordFitsRow.Statement (.mg3Rst lit) := by
  intro r hr hm
  fin_cases hr <;> simp_all [Instr.mnemonic, encode]

theorem EncodedWordFitsRow.sdPoll : EncodedWordFitsRow.Statement .sdPoll := by
  intro r hr hm
  fin_cases hr <;> revert hm <;> decide

theorem EncodedWordFitsRow.sdRst (lit : Word) : EncodedWordFitsRow.Statement (.sdRst lit) := by
  intro r hr hm
  fin_cases hr <;> simp_all [Instr.mnemonic, encode]

theorem EncodedWordFitsRow.setStart : EncodedWordFitsRow.Statement .setStart := by
  intro r hr hm
  fin_cases hr <;> revert hm <;> decide

theorem EncodedWordFitsRow.setStop : EncodedWordFitsRow.Statement .setStop := by
  intro r hr hm
  fin_cases hr <;> revert hm <;> decide

theorem EncodedWordFitsRow.setHardStop : EncodedWordFitsRow.Statement .setHardStop := by
  intro r hr hm
  fin_cases hr <;> revert hm <;> decide

theorem EncodedWordFitsRow.update : EncodedWordFitsRow.Statement .update := by
  intro r hr hm
  fin_cases hr <;> revert hm <;> decide

theorem EncodedWordFitsRow.xfer (w : Word) : EncodedWordFitsRow.Statement (.xfer w) := by
  intro r hr hm
  fin_cases hr <;> simp_all [Instr.mnemonic]

end Sys2Proof.Laws
end

