-- ==== Sys2Proof/Laws/Run.lean ====
section
/-! SUPPORT. One step of a run and of a trace, and the step of a pending interrupt. -/

namespace Sys2Proof.Machine

/-- While an interrupt is pending a step is the operation that the state and the received word select. -/
theorem step_pending {s : State} (h : s.irqPending = true) :
    step s = exec (decodeIrq s.pstate s.siodata) s := by
  rw [step, fetch_pending h]
  rfl

/-- A run of `n + 1` steps that ends in a state is a step and a run of `n` steps. -/
theorem run_succ_next_iff {n : Nat} {s t : State} :
    Host.Core.run Sys2Proof.core (n + 1) s = .next t ↔
      ∃ u, step s = .next u ∧ Host.Core.run Sys2Proof.core n u = .next t := by
  simp only [Host.Core.run]
  cases hs : core.step s with
  | next u =>
    constructor
    · intro h
      exact ⟨u, hs, h⟩
    · rintro ⟨v, h, h'⟩
      have e : Host.Outcome.next u = Host.Outcome.next v := hs.symm.trans h
      cases e
      exact h'
  | fault f => cases f
  | refused r =>
    constructor
    · intro h
      cases h
    · rintro ⟨v, h, -⟩
      have e : Host.Outcome.refused r = Host.Outcome.next v := hs.symm.trans h
      cases e

/-- A trace that runs is its first step and the rest of it. -/
theorem runTrace_cons_next_iff {x : TraceStep} {l : List TraceStep} {s t : State} :
    runTrace (x :: l) s = .next t ↔ ∃ u, traceStep x s = .next u ∧ runTrace l u = .next t := by
  simp only [runTrace]
  cases hs : traceStep x s with
  | next u =>
    constructor
    · intro h
      exact ⟨u, rfl, h⟩
    · rintro ⟨v, h, h'⟩
      cases h
      exact h'
  | fault f => cases f
  | refused r =>
    constructor
    · intro h
      cases h
    · rintro ⟨v, h, -⟩
      cases h

end Sys2Proof.Machine
end

