-- ==== Sys2Proof/Tests/Slice0.lean ====
section
/-! SUPPORT. Tests: the checks of `wellFormed`, one decoded word for each constructor, one or two single
steps for each operation (the vectors of spec/95_test_vectors.md, sections 1 and 2), and for each statement
that has hypotheses a state that meets them. -/

namespace Sys2Proof.Tests

open Sys2Proof Sys2Proof.Machine

/-- A state with an interrupt pending in protocol state `p` on word `w`, with the command Start and some
mode bits in `SIOCNT`. -/
def pending (p : PState) (w : Word) : State :=
  { State.reset with pstate := p, siodata := w, cmd := 0x40000026#32, siocnt := 0x5008#16, irqPending := true }

/-- A state with no interrupt pending. -/
def idle (p : PState) (w : Word) (cnt : Half) (l : List Input) : State :=
  { State.reset with pstate := p, siodata := w, siocnt := cnt, inputs := l }

/-- The five registers of the block after a step that completed. -/
def regs : Result → Option (PState × Word × Word × Half × Bool)
  | .next s => some (s.pstate, s.siodata, s.cmd, s.siocnt, s.irqPending)
  | .fault _ => none
  | .refused _ => none

/-- The two logs after a step that completed. -/
def logs : Result → Option (List Word × List Violation)
  | .next s => some (s.txLog, s.violationLog)
  | .fault _ => none
  | .refused _ => none

/-- The refusal of a step that was refused. -/
def refusal : Result → Option Refusal
  | .next _ => none
  | .fault _ => none
  | .refused r => some r

/-! ### Each check of `wellFormed` refuses an ill-formed term -/

theorem test_wf_hs0Nak : (Instr.hs0Nak 0xB6B1#16).wellFormed = false := by decide
theorem test_wf_hs0Rst : (Instr.hs0Rst 0x1234#16 0x494E#16).wellFormed = false := by decide
theorem test_wf_hs1Nak : (Instr.hs1Nak 0xABB1#16).wellFormed = false := by decide
theorem test_wf_hs1Rst : (Instr.hs1Rst 0x1234#16 0x544E#16).wellFormed = false := by decide
theorem test_wf_hs2Nak : (Instr.hs2Nak 0xB1BA#16).wellFormed = false := by decide
theorem test_wf_hs2Rst : (Instr.hs2Rst 0x1234#16 0x4E45#16).wellFormed = false := by decide
theorem test_wf_hs3Nak : (Instr.hs3Nak 0xB0BB#16).wellFormed = false := by decide
theorem test_wf_hs3Rst : (Instr.hs3Rst 0x1234#16 0x4F44#16).wellFormed = false := by decide
theorem test_wf_mg1Rst : (Instr.mg1Rst 0xB0BB8002#32).wellFormed = false := by decide
theorem test_wf_mg2Rst : (Instr.mg2Rst 0x10000010#32).wellFormed = false := by decide
theorem test_wf_mg3Rst : (Instr.mg3Rst 0x20000013#32).wellFormed = false := by decide
theorem test_wf_sdRst : (Instr.sdRst 0x30000003#32).wellFormed = false := by decide

/-! ### One word for each constructor, written out from the tables of R78 and R84; the first of each
family in bits -/

theorem test_decode_hs0Ack :
    decode (.irq .hs0) 0b10110110101100010100100101001110#32 = .ok .hs0Ack := by decide
theorem test_decode_hs0Nak : decode (.irq .hs0) 0x36B1494E#32 = .ok (.hs0Nak 0x36B1#16) := by decide
theorem test_decode_hs0Rst :
    decode (.irq .hs0) 0xB6B1494F#32 = .ok (.hs0Rst 0xB6B1#16 0x494F#16) := by decide
theorem test_decode_hs1Ack : decode (.irq .hs1) 0xABB1544E#32 = .ok .hs1Ack := by decide
theorem test_decode_hs1Nak : decode (.irq .hs1) 0xB6B1544E#32 = .ok (.hs1Nak 0xB6B1#16) := by decide
theorem test_decode_hs1Rst :
    decode (.irq .hs1) 0xB6B1494E#32 = .ok (.hs1Rst 0xB6B1#16 0x494E#16) := by decide
theorem test_decode_hs2Ack : decode (.irq .hs2) 0xB1BA4E45#32 = .ok .hs2Ack := by decide
theorem test_decode_hs2Nak : decode (.irq .hs2) 0xB1BB4E45#32 = .ok (.hs2Nak 0xB1BB#16) := by decide
theorem test_decode_hs2Rst :
    decode (.irq .hs2) 0x4E45B1BA#32 = .ok (.hs2Rst 0x4E45#16 0xB1BA#16) := by decide
theorem test_decode_hs3Ack : decode (.irq .hs3) 0xB0BB4F44#32 = .ok .hs3Ack := by decide
theorem test_decode_hs3Nak : decode (.irq .hs3) 0xFFFF4F44#32 = .ok (.hs3Nak 0xFFFF#16) := by decide
theorem test_decode_hs3Rst :
    decode (.irq .hs3) 0xB0BBCF44#32 = .ok (.hs3Rst 0xB0BB#16 0xCF44#16) := by decide
theorem test_decode_mg1Ok :
    decode (.irq .mg1) 0b10110000101110111000000000000010#32 = .ok .mg1Ok := by decide
theorem test_decode_mg1Rst : decode (.irq .mg1) 0x8000B0BB#32 = .ok (.mg1Rst 0x8000B0BB#32) := by decide
theorem test_decode_mg2Ok : decode (.irq .mg2) 0x10000010#32 = .ok .mg2Ok := by decide
theorem test_decode_mg2Rst : decode (.irq .mg2) 0x90000010#32 = .ok (.mg2Rst 0x90000010#32) := by decide
theorem test_decode_mg3Ok : decode (.irq .mg3) 0x20000013#32 = .ok .mg3Ok := by decide
theorem test_decode_mg3Rst : decode (.irq .mg3) 0x30000003#32 = .ok (.mg3Rst 0x30000003#32) := by decide
theorem test_decode_sdPoll :
    decode (.irq .sendData) 0b00110000000000000000000000000011#32 = .ok .sdPoll := by decide
theorem test_decode_sdRst :
    decode (.irq .sendData) 0x30000013#32 = .ok (.sdRst 0x30000013#32) := by decide
theorem test_decode_setStart :
    decode .host 0b01000000000000000000000000100110#32 = .ok .setStart := by decide
theorem test_decode_setStop : decode .host 0x40000004#32 = .ok .setStop := by decide
theorem test_decode_setHardStop : decode .host 0x40000015#32 = .ok .setHardStop := by decide
theorem test_decode_update : decode .host 0x00000080#32 = .ok .update := by decide
theorem test_decode_xfer :
    decode .link 0b10101011101100010101010001001110#32 = .ok (.xfer 0xABB1544E#32) := by decide
theorem test_decode_notAHostOperation :
    decode .host 0x40000027#32 = .error (.notAHostOperation 0x40000027#32) := by decide

/-! ### Words of spec/opcode_table.json -/

theorem test_table_hs2Ack : decodeTableWord 32 0xB1BA4E45 = some .hs2Ack := by decide
theorem test_table_hs3Nak : decodeTableWord 32 0x00004F44 = some (.hs3Nak 0x0000#16) := by decide
theorem test_table_mg3Ok : decodeTableWord 32 0x20000013 = some .mg3Ok := by decide
theorem test_table_sdPoll : decodeTableWord 32 0x30000003 = some .sdPoll := by decide
theorem test_table_update : decodeTableWord 32 0x00000080 = some .update := by decide
theorem test_table_reset_row : decodeTableWord 32 0x00000000 = some (.hs0Rst 0x0000#16 0x0000#16) := by
  decide
theorem test_table_runs_mg2Ok : regs (step (State.reset.withFetchWord 32 0x10000010)) =
    some (.mg3, 0x20000013#32, 0x40000004#32, 0x0080#16, false) := by decide
theorem test_table_runs_setHardStop : regs (step (State.reset.withFetchWord 32 0x40000015)) =
    some (.hs0, 0x00000000#32, 0x40000015#32, 0x0000#16, false) := by decide

/-! ### Single steps: the vectors of 95_test_vectors.md, 1 and 2.2 to 2.7 -/

theorem test_hs0Ack : regs (exec .hs0Ack (pending .hs0 0xB6B1494E#32)) =
    some (.hs1, 0x544EB6B1#32, 0x40000026#32, 0x5088#16, false) := by decide
theorem test_hs0Nak : regs (exec (.hs0Nak 0xB6B0#16) (pending .hs0 0xB6B0494E#32)) =
    some (.hs0, 0x494EB6B1#32, 0x40000026#32, 0x5088#16, false) := by decide
theorem test_hs0Rst : regs (exec (.hs0Rst 0xB6B1#16 0x544E#16) (pending .hs0 0xB6B1544E#32)) =
    some (.hs0, 0xB6B1544E#32, 0x40000026#32, 0x5008#16, false) := by decide
theorem test_hs1Ack : regs (exec .hs1Ack (pending .hs1 0xABB1544E#32)) =
    some (.hs2, 0x4E45ABB1#32, 0x40000026#32, 0x5088#16, false) := by decide
theorem test_hs1Nak : regs (exec (.hs1Nak 0x544E#16) (pending .hs1 0x544E544E#32)) =
    some (.hs1, 0x544EABB1#32, 0x40000026#32, 0x5088#16, false) := by decide
theorem test_hs1Rst : regs (exec (.hs1Rst 0xABB1#16 0x4E45#16) (pending .hs1 0xABB14E45#32)) =
    some (.hs0, 0xABB14E45#32, 0x40000026#32, 0x5008#16, false) := by decide
theorem test_hs2Ack : regs (exec .hs2Ack (pending .hs2 0xB1BA4E45#32)) =
    some (.hs3, 0x4F44B1BA#32, 0x40000026#32, 0x5088#16, false) := by decide
theorem test_hs2Nak : regs (exec (.hs2Nak 0xABB1#16) (pending .hs2 0xABB14E45#32)) =
    some (.hs2, 0x4E45B1BA#32, 0x40000026#32, 0x5088#16, false) := by decide
theorem test_hs2Rst : regs (exec (.hs2Rst 0xB1BA#16 0x4F44#16) (pending .hs2 0xB1BA4F44#32)) =
    some (.hs0, 0xB1BA4F44#32, 0x40000026#32, 0x5008#16, false) := by decide
theorem test_hs3Ack : regs (exec .hs3Ack (pending .hs3 0xB0BB4F44#32)) =
    some (.mg1, 0x8000B0BB#32, 0x40000026#32, 0x5088#16, false) := by decide
theorem test_hs3Nak : regs (exec (.hs3Nak 0x30BB#16) (pending .hs3 0x30BB4F44#32)) =
    some (.hs3, 0x4F44B0BB#32, 0x40000026#32, 0x5088#16, false) := by decide
theorem test_hs3Rst : regs (exec (.hs3Rst 0xB0BB#16 0x494E#16) (pending .hs3 0xB0BB494E#32)) =
    some (.hs0, 0xB0BB494E#32, 0x40000026#32, 0x5008#16, false) := by decide
theorem test_hs3Rst_logged : logs (exec (.hs3Rst 0xB0BB#16 0x494E#16) (pending .hs3 0xB0BB494E#32)) =
    some ([], [⟨.vKey, 0xB0BB494E#32⟩]) := by decide
theorem test_mg1Ok : regs (exec .mg1Ok (pending .mg1 0xB0BB8002#32)) =
    some (.mg2, 0x10000010#32, 0x40000026#32, 0x5088#16, false) := by decide
theorem test_mg1Rst : regs (exec (.mg1Rst 0xB0BB4F44#32) (pending .mg1 0xB0BB4F44#32)) =
    some (.hs0, 0xB0BB4F44#32, 0x40000026#32, 0x5008#16, false) := by decide
theorem test_mg2Ok : regs (exec .mg2Ok (pending .mg2 0x10000010#32)) =
    some (.mg3, 0x20000013#32, 0x40000026#32, 0x5088#16, false) := by decide
theorem test_mg2Rst : regs (exec (.mg2Rst 0xB0BB8002#32) (pending .mg2 0xB0BB8002#32)) =
    some (.hs0, 0xB0BB8002#32, 0x40000026#32, 0x5008#16, false) := by decide
theorem test_mg3Ok : regs (exec .mg3Ok (pending .mg3 0x20000013#32)) =
    some (.sendData, 0x40000004#32, 0x40000026#32, 0x5088#16, false) := by decide
theorem test_mg3Rst : regs (exec (.mg3Rst 0x30000003#32) (pending .mg3 0x30000003#32)) =
    some (.hs0, 0x30000003#32, 0x40000026#32, 0x5008#16, false) := by decide
theorem test_sdPoll : regs (exec .sdPoll (pending .sendData 0x30000003#32)) =
    some (.sendData, 0x40000026#32, 0x40000026#32, 0x5088#16, false) := by decide
theorem test_sdRst : regs (exec (.sdRst 0x40000026#32) (pending .sendData 0x40000026#32)) =
    some (.hs0, 0x40000026#32, 0x40000026#32, 0x5008#16, false) := by decide
theorem test_setStart : regs (exec .setStart (idle .mg2 0x10000010#32 0x5088#16 [])) =
    some (.mg2, 0x10000010#32, 0x40000026#32, 0x5088#16, false) := by decide
theorem test_setStop : regs (exec .setStop { idle .sendData 0x40000026#32 0x5088#16 [] with
    cmd := 0x40000026#32 }) = some (.sendData, 0x40000026#32, 0x40000004#32, 0x5088#16, false) := by decide
theorem test_setHardStop : regs (exec .setHardStop (idle .hs0 0x12345678#32 0x5008#16 [])) =
    some (.hs0, 0x12345678#32, 0x40000015#32, 0x5008#16, false) := by decide
theorem test_update : regs (exec .update (idle .hs0 0x12345678#32 0xFF7F#16 [])) =
    some (.hs0, 0x12345678#32, 0x40000004#32, 0xFFFF#16, false) := by decide
theorem test_update_again : regs (exec .update (idle .sendData 0x40000004#32 0x5088#16 [])) =
    some (.sendData, 0x40000004#32, 0x40000004#32, 0x5088#16, false) := by decide
theorem test_xfer : regs (exec (.xfer 0x30000003#32) (idle .sendData 0x40000026#32 0xFFFF#16 [])) =
    some (.sendData, 0x30000003#32, 0x40000004#32, 0xFF7F#16, true) := by decide
theorem test_xfer_sends : logs (exec (.xfer 0xABB1544E#32) (idle .hs1 0x544EB6B1#32 0x5088#16 [])) =
    some ([0x544EB6B1#32], []) := by decide

/-! ### Steps that are not enabled -/

theorem test_xfer_not_armed : refusal (exec (.xfer 0x0#32) (idle .hs0 0x0#32 0x5008#16 [])) =
    some .linkNotArmed := by decide
theorem test_xfer_overrun : refusal (exec (.xfer 0x0#32) (pending .hs0 0x0#32)) = some .overrun := by
  decide
theorem test_update_while_pending : refusal (exec .update (pending .hs0 0x0#32)) =
    some .interruptPending := by decide
theorem test_irq_while_idle : refusal (exec .hs0Ack (idle .hs0 0xB6B1494E#32 0x0080#16 [])) =
    some .notSelected := by decide
theorem test_host_reads_pstate :
    refusal (step (idle .hs0 0x0#32 0x0#16 [.hostAccess ⟨.pstate, false, 0⟩])) =
      some .hostDiscipline := by decide
theorem test_host_writes_half_of_siodata :
    accessRefusal (.ofPair 0x100 0x108) ⟨.bus 0x102 2, true, 5⟩ = .partialAccess := by decide
theorem test_host_reads_siocnt :
    accessRefusal (.ofPair 0x100 0x108) ⟨.bus 0x108 2, false, 0⟩ = .hostDiscipline := by decide
theorem test_host_elsewhere :
    accessRefusal (.ofPair 0x100 0x108) ⟨.bus 0x104 4, false, 0⟩ = .outsideBlock := by decide
theorem test_bus_reads_siocnt :
    memRead (.ofPair 0x108 0x108) 0x109 2 (idle .hs0 0x0#32 0x5088#16 []) = .ok 0x5088 := by decide

/-! ### A state for the hypotheses of each statement

The name after `witness_` is the statement's; a letter after it is the clause. -/

theorem test_witness_HandshakeAck : (pending .hs0 0xB6B1494E#32).Waiting .hs0 0xB6B1494E#32 ∧
    (pending .hs1 0xABB1544E#32).Waiting .hs1 0xABB1544E#32 ∧
    (pending .hs2 0xB1BA4E45#32).Waiting .hs2 0xB1BA4E45#32 ∧
    (pending .hs3 0xB0BB4F44#32).Waiting .hs3 0xB0BB4F44#32 :=
  ⟨⟨rfl, rfl, rfl⟩, ⟨rfl, rfl, rfl⟩, ⟨rfl, rfl, rfl⟩, ⟨rfl, rfl, rfl⟩⟩

/-- For every statement that asks for `PendingUnarmed` with an interrupt pending. -/
theorem test_witness_pendingUnarmed :
    (pending .hs0 0x0#32).PendingUnarmed ∧ (pending .hs0 0x0#32).irqPending = true :=
  ⟨fun _ => by decide, rfl⟩

theorem test_witness_HandshakeNak :
    (0xB6B0#16 ≠ 0xB6B1#16 ∧ (pending .hs0 0xB6B0494E#32).Waiting .hs0 (0xB6B0#16 ++ 0x494E#16)) ∧
    (0x0000#16 ≠ 0xABB1#16 ∧ (pending .hs1 0x0000544E#32).Waiting .hs1 (0x0000#16 ++ 0x544E#16)) ∧
    (0x31BA#16 ≠ 0xB1BA#16 ∧ (pending .hs2 0x31BA4E45#32).Waiting .hs2 (0x31BA#16 ++ 0x4E45#16)) ∧
    (0xFFFF#16 ≠ 0xB0BB#16 ∧ (pending .hs3 0xFFFF4F44#32).Waiting .hs3 (0xFFFF#16 ++ 0x4F44#16)) :=
  ⟨⟨by decide, rfl, rfl, by decide⟩, ⟨by decide, rfl, rfl, by decide⟩, ⟨by decide, rfl, rfl, by decide⟩,
    ⟨by decide, rfl, rfl, by decide⟩⟩

theorem test_witness_HandshakeWrongKey :
    (0x494F#16 ≠ 0x494E#16 ∧ (pending .hs0 0xB6B1494F#32).Waiting .hs0 (0xB6B1#16 ++ 0x494F#16)) ∧
    (0xD44E#16 ≠ 0x544E#16 ∧ (pending .hs1 0xABB1D44E#32).Waiting .hs1 (0xABB1#16 ++ 0xD44E#16)) ∧
    (0x0000#16 ≠ 0x4E45#16 ∧ (pending .hs2 0x00000000#32).Waiting .hs2 (0x0000#16 ++ 0x0000#16)) ∧
    (0xFFFF#16 ≠ 0x4F44#16 ∧ (pending .hs3 0xFFFFFFFF#32).Waiting .hs3 (0xFFFF#16 ++ 0xFFFF#16)) :=
  ⟨⟨by decide, rfl, rfl, by decide⟩, ⟨by decide, rfl, rfl, by decide⟩, ⟨by decide, rfl, rfl, by decide⟩,
    ⟨by decide, rfl, rfl, by decide⟩⟩

theorem test_witness_MagicMatch : (pending .mg1 0xB0BB8002#32).Waiting .mg1 0xB0BB8002#32 ∧
    (pending .mg2 0x10000010#32).Waiting .mg2 0x10000010#32 ∧
    (pending .mg3 0x20000013#32).Waiting .mg3 0x20000013#32 :=
  ⟨⟨rfl, rfl, rfl⟩, ⟨rfl, rfl, rfl⟩, ⟨rfl, rfl, rfl⟩⟩

theorem test_witness_MagicMismatch :
    (0xB0BB8003#32 ≠ 0xB0BB8002#32 ∧ (pending .mg1 0xB0BB8003#32).Waiting .mg1 0xB0BB8003#32) ∧
    (0x90000010#32 ≠ 0x10000010#32 ∧ (pending .mg2 0x90000010#32).Waiting .mg2 0x90000010#32) ∧
    (0x00000000#32 ≠ 0x20000013#32 ∧ (pending .mg3 0x00000000#32).Waiting .mg3 0x00000000#32) :=
  ⟨⟨by decide, rfl, rfl, rfl⟩, ⟨by decide, rfl, rfl, rfl⟩, ⟨by decide, rfl, rfl, rfl⟩⟩

/-- Also for the poll clause of `CommandStaysOneOfThree`. -/
theorem test_witness_SteadyState : (pending .sendData 0x30000003#32).Waiting .sendData 0x30000003#32 ∧
    (0x30000002#32 ≠ 0x30000003#32 ∧
      (pending .sendData 0x30000002#32).Waiting .sendData 0x30000002#32) :=
  ⟨⟨rfl, rfl, rfl⟩, by decide, rfl, rfl, rfl⟩

theorem test_witness_Setters : (idle .mg2 0x0#32 0x0#16 []).irqPending = false ∧
    (idle .mg2 0x0#32 0x0#16 []).cmd = 0x40000004#32 ∧
    (State.armed ⟨.start, 0x0#32, 0x0#16⟩).irqPending = false ∧
    (State.armed ⟨.start, 0x0#32, 0x0#16⟩).cmd = 0x40000026#32 ∧
    (State.armed ⟨.hardStop, 0x0#32, 0x0#16⟩).irqPending = false ∧
    (State.armed ⟨.hardStop, 0x0#32, 0x0#16⟩).cmd = 0x40000015#32 := by decide

/-- For `UpdateSetsOnlyStart`, `TransferExchangesWords`, `InterruptExcludesOtherAgents` and
`SplitUpdateEqualsOrderedUpdate`: armed and not armed, no interrupt pending. -/
theorem test_witness_armed_and_not : (idle .hs0 0x0#32 0x0080#16 []).irqPending = false ∧
    (idle .hs0 0x0#32 0x0080#16 []).siocnt.getLsbD 7 = true ∧
    (idle .hs0 0x0#32 0xFF7F#16 []).irqPending = false ∧
    (idle .hs0 0x0#32 0xFF7F#16 []).siocnt.getLsbD 7 = false := by decide

theorem test_witness_DecodeOfEncode : (Instr.hs0Nak 0xB6B0#16).wellFormed = true ∧
    (Instr.hs3Rst 0xB0BB#16 0x4F45#16).wellFormed = true ∧ (Instr.mg1Rst 0xB0BB8003#32).wellFormed = true ∧
    (Instr.sdRst 0x0#32).wellFormed = true ∧ Instr.update.wellFormed = true := by decide

theorem test_witness_EncodeOfDecode : decode (.irq .hs2) 0x0#32 = .ok (.hs2Rst 0x0#16 0x0#16) ∧
    decode .host 0x80#32 = .ok .update ∧ decode .link 0xFFFFFFFF#32 = .ok (.xfer 0xFFFFFFFF#32) := by decide

theorem test_witness_LegalWord : PState.mg2 ≠ PState.hs0 ∧
    (decodeIrq .hs0 0xB6B1494E#32).isReset = false ∧ (pending .mg2 0xB6B1494E#32).irqPending = true ∧
    (decodeIrq .mg2 0xB6B1494E#32).isReset = true := by decide

theorem test_witness_StepRuns :
    (decode (.irq (pending .hs1 0xABB1544E#32).pstate) (pending .hs1 0xABB1544E#32).siodata = .ok .hs1Ack ∧
      (pending .hs1 0xABB1544E#32).irqPending = true) ∧
    ((idle .hs0 0x0#32 0x0#16 [.host 0x80#32]).irqPending = false ∧
      (idle .hs0 0x0#32 0x0#16 [.host 0x80#32]).inputs = [.host 0x80#32] ∧
      decode .host 0x80#32 = .ok .update) ∧
    ((idle .hs0 0x0#32 0x80#16 [.link 0x1#32]).irqPending = false ∧
      (idle .hs0 0x0#32 0x80#16 [.link 0x1#32]).inputs = [.link 0x1#32] ∧
      decode .link 0x1#32 = .ok (.xfer 0x1#32)) := by decide

theorem test_witness_TransferEnabled : (idle .hs0 0x0#32 0x80#16 []).PendingUnarmed ∧
    startFlag (idle .hs0 0x0#32 0x80#16 []).siocnt = true ∧ (pending .hs0 0x0#32).PendingUnarmed :=
  ⟨fun h => (by cases h), by decide, fun _ => by decide⟩

/-- Also for `InterruptStepRefinesStepFunction`. -/
theorem test_witness_TableRow : (pending .mg3 0x20000013#32).irqPending = true ∧
    ∃ r ∈ decodeRows, r.selectedBy .mg3 0x20000013#32 = true := by decide

theorem test_witness_OnlyResetRows :
    (∃ t, exec (.sdRst 0x0#32) (pending .sendData 0x0#32) = .next t) ∧
    (Instr.sdRst 0x0#32).isReset = true ∧
    (∃ t, exec .update (idle .hs0 0x0#32 0x0#16 []) = .next t) ∧ Instr.update.isReset = false :=
  ⟨⟨_, rfl⟩, rfl, ⟨_, rfl⟩, rfl⟩

theorem test_witness_ViolationCauses :
    low16 (pending .hs0 0xB6B1494F#32).siodata ≠ 0x494E#16 ∧
    low16 (pending .hs1 0xABB1D44E#32).siodata ≠ 0x544E#16 ∧
    low16 (pending .hs2 0xB1BA4E44#32).siodata ≠ 0x4E45#16 ∧
    low16 (pending .hs3 0xB0BB4F45#32).siodata ≠ 0x4F44#16 ∧
    (pending .mg1 0xB0BB8003#32).siodata ≠ 0xB0BB8002#32 ∧
    (pending .mg2 0x90000010#32).siodata ≠ 0x10000010#32 ∧
    (pending .mg3 0x30000003#32).siodata ≠ 0x20000013#32 ∧
    (pending .sendData 0x40000026#32).siodata ≠ 0x30000003#32 := by decide

theorem test_witness_NakReply : (pending .hs3 0x0#32).irqPending = true ∧
    (pending .hs3 0x0#32).pstate = handshakeState 3 ∧ 0x0000#16 ≠ not16 (key 3) ∧
    0xFFFF#16 ≠ not16 (key 3) := by decide

/-- For every statement about a step that completes: an interrupt step, an operation of `HOST`, a
transfer. -/
theorem test_witness_step_completes : (∃ t, step (pending .hs0 0xB6B1494E#32) = .next t) ∧
    (∃ t, step (idle .hs0 0x0#32 0x0#16 [.host 0x80#32]) = .next t) ∧
    (∃ t, step (idle .hs0 0x0#32 0x80#16 [.link 0x1#32]) = .next t) :=
  ⟨⟨_, rfl⟩, ⟨_, rfl⟩, ⟨_, rfl⟩⟩

theorem test_witness_ProtocolStateGates :
    (∃ t, step (pending .hs3 0xB0BB4F44#32) = .next t ∧ t.pstate = .mg1) ∧
    (∃ t, step (pending .mg3 0x20000013#32) = .next t ∧ t.pstate = .sendData) ∧
    (∃ t, step (pending .sendData 0x0#32) = .next t ∧ t.pstate ≠ .sendData) :=
  ⟨⟨_, rfl, rfl⟩, ⟨_, rfl, rfl⟩, ⟨_, rfl, by decide⟩⟩

theorem test_witness_ProtocolStateCode : successor .mg3 = some .sendData := rfl

/-- The seven matching words. -/
def matching : List Word :=
  [0xB6B1494E#32, 0xABB1544E#32, 0xB1BA4E45#32, 0xB0BB4F44#32, 0xB0BB8002#32, 0x10000010#32, 0x20000013#32]

theorem test_witness_FourteenSteps : ∃ t,
    Host.Core.run Sys2Proof.core 14 (idle .hs0 0x0#32 0x80#16 (matching.map .link)) = .next t ∧
      t.pstate = .sendData := ⟨_, rfl, rfl⟩

theorem test_witness_MatchingWords : (idle .hs0 0x0#32 0x80#16 []).pstate = .hs0 ∧
    startFlag (idle .hs0 0x0#32 0x80#16 []).siocnt = true ∧
    ∃ t, runTrace (expandTrace (matching.map .rx)) (idle .hs0 0x0#32 0x80#16 []) = .next t ∧
      t.pstate = .sendData := ⟨rfl, by decide, _, rfl, rfl⟩

theorem test_witness_PollServes : (idle .sendData 0x0#32 0x80#16 []).pstate = .sendData ∧
    (idle .sendData 0x0#32 0x80#16 []).irqPending = false ∧
    startFlag (idle .sendData 0x0#32 0x80#16 []).siocnt = true ∧ HostOp.setStart ≠ .update ∧
    HostOp.setHardStop ≠ .update := by decide

theorem test_witness_OnlyPoll : (pending .sendData 0x0#32).irqPending = true ∧
    ¬ (pending .sendData 0x0#32).Waiting .sendData 0x30000003#32 ∧
    ∃ t, step (pending .sendData 0x0#32) = .next t :=
  ⟨rfl, fun h => absurd h.2.2 (by decide), _, rfl⟩

theorem test_witness_StartIsNeverSent : ResetParams.simulator.cmdReset ≠ .start ∧
    ResetParams.simulator.siodataReset ≠ 0x40000026#32 ∧
    ∃ t, runTrace [.host .update, .xfer 0x40000026#32, .irq, .host .update, .xfer 0x0#32]
      (State.armed ResetParams.simulator) = .next t ∧ t.txLog = [0x0#32, 0x40000026#32] :=
  ⟨by decide, by decide, _, rfl, by decide⟩

/-- Also for `StartIsSetKeptAndCleared`: an operation of each slot completes. -/
theorem test_witness_EachAgent : (∃ t, exec .hs0Ack (pending .hs0 0xB6B1494E#32) = .next t) ∧
    (∃ t, exec (.hs0Rst 0x0#16 0x0#16) (pending .hs0 0x0#32) = .next t) ∧
    (∃ t, exec (hostInstr .setStop) (idle .hs0 0x0#32 0x0#16 []) = .next t) ∧
    (∃ t, exec (.xfer 0x1#32) (idle .hs0 0x0#32 0x80#16 []) = .next t) :=
  ⟨⟨_, rfl⟩, ⟨_, rfl⟩, ⟨_, rfl⟩, ⟨_, rfl⟩⟩

/-- For each clause: any access can be the first request, with no interrupt pending, at any place; and a
request word that is no operation. -/
theorem test_witness_OtherHostRequests :
    (∀ a : RegAccess, (idle .hs0 0x0#32 0x0#16 [.hostAccess a]).irqPending = false ∧
      (idle .hs0 0x0#32 0x0#16 [.hostAccess a]).inputs = [.hostAccess a]) ∧
    (∀ p : Place, (⟨p, true, 0⟩ : RegAccess).place = p) ∧ (3 ≠ 4 ∧ 5 ≠ 4) ∧ (1 ≠ 2 ∧ 3 ≠ 2) ∧
    (idle .hs0 0x0#32 0x0#16 [.host 0x81#32]).inputs = [.host 0x81#32] :=
  ⟨fun _ => ⟨rfl, rfl⟩, fun _ => rfl, by decide, by decide, rfl⟩

/-- An access off both starts that touches `SIODATA`, and one beyond both registers, whatever the two
addresses are. -/
theorem test_witness_OtherHostRequests_addresses (a b : Nat) :
    (∃ addr n : Nat, addr ≠ a ∧ addr ≠ b ∧
      0 < n ∧ (addr < a + 4 ∧ a < addr + n ∨ addr < b + 2 ∧ b < addr + n)) ∧
    (∃ addr n : Nat, addr ≠ a ∧ addr ≠ b ∧
      ¬ (0 < n ∧ (addr < a + 4 ∧ a < addr + n ∨ addr < b + 2 ∧ b < addr + n))) := by
  refine ⟨?_, a + b + 4, 1, by omega, by omega, by omega⟩
  by_cases h : a + 3 = b
  · exact ⟨a + 2, 1, by omega, by omega, by omega⟩
  · exact ⟨a + 3, 1, by omega, by omega, by omega⟩

theorem test_witness_Invariant : State.reset.Inv ∧
    ∃ t, step { State.reset with inputs := [.host 0x80#32] } = .next t :=
  ⟨⟨.inl rfl, fun h => (by cases h)⟩, _, rfl⟩

theorem test_witness_ModeBits :
    ∃ t, Host.Core.run Sys2Proof.core 1 (idle .hs0 0x0#32 0xFF7F#16 [.host 0x80#32]) = .next t := ⟨_, rfl⟩

theorem test_witness_Arming : (⟨.stop, 0x0#32, 0x0#16⟩ : ResetParams).cmdReset = .stop ∧
    (⟨.hardStop, 0xFFFFFFFF#32, 0xFFFF#16⟩ : ResetParams).cmdReset = .hardStop ∧
    (⟨.start, 0x0#32, 0x0#16⟩ : ResetParams).cmdReset = .start ∧
    (⟨.start, 0x0#32, 0xFF7F#16⟩ : ResetParams).siocntArmed.getLsbD 7 = false := by decide

theorem test_witness_SentWords : State.reset.TxAccounted 0x0#32 :=
  ⟨.inl rfl, fun _ h => (by cases h), fun _ => .inl rfl⟩

theorem test_witness_OffendingWord : (pending .mg1 0x8000B0BB#32).irqPending = true ∧
    (decodeIrq (pending .mg1 0x8000B0BB#32).pstate (pending .mg1 0x8000B0BB#32).siodata).isReset = true := by
  decide

theorem test_witness_Stalled : (idle .mg2 0x0#32 0x5008#16 []).Stalled ∧
    (∃ t, runTrace [.host .setStart, .host .setStop] (idle .mg2 0x0#32 0x5008#16 []) = .next t) ∧
    TraceStep.host .update ∉ [TraceStep.host .setStart, .host .setStop] :=
  ⟨⟨rfl, by decide⟩, ⟨_, rfl⟩, by decide⟩

theorem test_witness_TraceRun : (idle .hs0 0x0#32 0x80#16 []).inputs = [] ∧
    ∃ t, runTrace [.xfer 0xB6B1494E#32, .irq, .host .setStart] (idle .hs0 0x0#32 0x80#16 []) = .next t :=
  ⟨rfl, _, rfl⟩

theorem test_witness_RunNeverEnds : State.reset.inputs = [] := rfl

theorem test_witness_Interface :
    memRead (.ofPair 0x100 0x108) 0x108 2 (idle .hs0 0x0#32 0x5008#16 []) = .ok 0x5008 ∧
    memWrite (.ofPair 0x100 0x108) 0x100 4 7 (idle .hs0 0x0#32 0x5008#16 []) =
      .ok (idle .hs0 0x7#32 0x5008#16 []) ∧ 2 ≠ 4 ∧ 8 ≠ 4 ∧ 1 ≠ 2 ∧ 4 ≠ 2 := by decide

theorem test_witness_StartAccounted : State.reset.StartAccounted ∧
    (∃ t, exec .update State.reset = .next t) ∧ Instr.update ≠ .setStart :=
  ⟨⟨by decide, fun h => (by cases h), fun _ h => absurd h (by decide)⟩, ⟨_, rfl⟩, by decide⟩

end Sys2Proof.Tests
end

section
/-! The register interface by address (O48): an access of `memRead` or `memWrite` is what `busRegister`
says it reaches, and each of the two registers is reached by accesses of its own width alone. -/

namespace Sys2Proof.Machine

section
variable {m : SerialAddrs} {addr n : Nat}

/-- A read that reaches a register gives the register's value. -/
theorem memRead_of_reaches {r : Register} (h : busRegister m addr n = .ok r) (s : State) :
    memRead m addr n s = .ok (readRegister r s) := by
  rw [memRead, h]

/-- A write that reaches a register is the write of that register. -/
theorem memWrite_of_reaches {r : Register} (h : busRegister m addr n = .ok r) (v : Nat) (s : State) :
    memWrite m addr n v s = .ok (writeRegister r v s) := by
  rw [memWrite, h]

/-- An access that reaches no register is refused alike as a read and as a write. -/
theorem mem_refused {e : Refusal} (h : busRegister m addr n = .error e) (v : Nat) (s : State) :
    memRead m addr n s = .error e ∧ memWrite m addr n v s = .error e := by
  rw [memRead, memWrite, h]
  exact ⟨rfl, rfl⟩

end

/-- Writing the number of a word to `SIODATA` loses nothing. -/
@[simp] theorem writeRegister_siodata_toNat (v : Word) (s : State) :
    writeRegister .siodata v.toNat s = writeSiodata v s := by
  rw [writeRegister, BitVec.ofNat_toNat, BitVec.setWidth_eq]

/-- Writing the number of a half word to `SIOCNT` loses nothing. -/
@[simp] theorem writeRegister_siocnt_toNat (v : Half) (s : State) :
    writeRegister .siocnt v.toNat s = writeSiocnt v s := by
  rw [writeRegister, BitVec.ofNat_toNat, BitVec.setWidth_eq]

theorem memRead_siodata (m : SerialAddrs) (s : State) :
    memRead m m.siodata 4 s = .ok s.siodata.toNat :=
  memRead_of_reaches (busRegister_siodata m 4) s

theorem memRead_siocnt (m : SerialAddrs) (s : State) :
    memRead m m.siocnt 2 s = .ok s.siocnt.toNat :=
  memRead_of_reaches (busRegister_siocnt m 2) s

theorem memWrite_siodata (m : SerialAddrs) (v : Word) (s : State) :
    memWrite m m.siodata 4 v.toNat s = .ok (writeSiodata v s) := by
  rw [memWrite_of_reaches (busRegister_siodata m 4), writeRegister_siodata_toNat]

theorem memWrite_siocnt (m : SerialAddrs) (v : Half) (s : State) :
    memWrite m m.siocnt 2 v.toNat s = .ok (writeSiocnt v s) := by
  rw [memWrite_of_reaches (busRegister_siocnt m 2), writeRegister_siocnt_toNat]

/-- As numbers too, setting `START` is the OR with `0x0080`. -/
theorem withStart_toNat (v : Half) : (withStart v).toNat = v.toNat ||| 0x0080 := by
  rw [withStart_eq, BitVec.toNat_or]
  rfl

/-- `ARM()` as R12 writes it: the 16-bit read, the OR, the 16-bit write back. -/
theorem memWrite_read_or_start (m : SerialAddrs) {s : State} {v : Nat}
    (hread : memRead m m.siocnt 2 s = .ok v) :
    memWrite m m.siocnt 2 (v ||| 0x0080) s = .ok (arm s) := by
  rw [memRead_siocnt, Except.ok.injEq] at hread
  rw [← hread, ← withStart_toNat, memWrite_siocnt]
  rfl

/-- `REPLY(v)` as R12 writes it: the 32-bit write of `SIODATA`, then `ARM()`. -/
theorem reply_of_memWrite {m : SerialAddrs} {v : Word} {s t : State}
    (hwrite : memWrite m m.siodata 4 v.toNat s = .ok t) : reply v s = arm t := by
  rw [memWrite_siodata, Except.ok.injEq] at hwrite
  rw [← hwrite, reply]

/-- At `SIODATA`'s address every size but 4 is a partial access (R54). -/
theorem busRegister_siodata_partial (m : SerialAddrs) {n : Nat} (h : n ≠ 4) :
    busRegister m m.siodata n = .error .partialAccess := by
  rw [busRegister_siodata, if_neg h]

/-- At `SIOCNT`'s address every size but 2 is a partial access (R54). -/
theorem busRegister_siocnt_partial (m : SerialAddrs) {n : Nat} (h : n ≠ 2) :
    busRegister m m.siocnt n = .error .partialAccess := by
  rw [busRegister_siocnt, if_neg h]

/-- Settles O48: what `busRegister` reaches at each address, by the size of the access, decides every
clause. -/
theorem interfaceReachesTheSerialRegisters : Obligations.InterfaceReachesTheSerialRegisters := by
  intro m s
  exact ⟨memRead_siodata m s, memRead_siocnt m s,
    fun v => memWrite_siodata m v s,
    fun v => memWrite_siocnt m v s,
    fun _ hread => memWrite_read_or_start m hread,
    fun _ _ hwrite => reply_of_memWrite hwrite,
    fun _ v hn => mem_refused (busRegister_siodata_partial m hn) v s,
    fun _ v hn => mem_refused (busRegister_siocnt_partial m hn) v s⟩

end Sys2Proof.Machine
end

section
/-! What a completed operation leaves, field by field: the four results that `exec_next_cases` and
`step_next_kinds` name are `State.replied`, `State.violated`, `hostEffect` and `completeTransfer`. -/

namespace Sys2Proof.Machine

@[simp] theorem State.replied_pstate (s : State) (p : PState) (v : Word) : (s.replied p v).pstate = p := rfl
@[simp] theorem State.replied_siodata (s : State) (p : PState) (v : Word) : (s.replied p v).siodata = v := rfl
@[simp] theorem State.replied_cmd (s : State) (p : PState) (v : Word) : (s.replied p v).cmd = s.cmd := rfl
@[simp] theorem State.replied_siocnt (s : State) (p : PState) (v : Word) :
    (s.replied p v).siocnt = s.siocnt ||| 0x0080#16 := rfl
@[simp] theorem State.replied_irqPending (s : State) (p : PState) (v : Word) :
    (s.replied p v).irqPending = false := rfl
@[simp] theorem State.replied_txLog (s : State) (p : PState) (v : Word) : (s.replied p v).txLog = s.txLog := rfl
@[simp] theorem State.replied_violationLog (s : State) (p : PState) (v : Word) :
    (s.replied p v).violationLog = s.violationLog := rfl
@[simp] theorem State.replied_inputs (s : State) (p : PState) (v : Word) :
    (s.replied p v).inputs = s.inputs := rfl
@[simp] theorem State.replied_draws (s : State) (p : PState) (v : Word) : (s.replied p v).draws = s.draws := rfl

@[simp] theorem State.violated_pstate (s : State) (c : ViolationClass) : (s.violated c).pstate = .hs0 := rfl
@[simp] theorem State.violated_siodata (s : State) (c : ViolationClass) :
    (s.violated c).siodata = s.siodata := rfl
@[simp] theorem State.violated_cmd (s : State) (c : ViolationClass) : (s.violated c).cmd = s.cmd := rfl
@[simp] theorem State.violated_siocnt (s : State) (c : ViolationClass) : (s.violated c).siocnt = s.siocnt := rfl
@[simp] theorem State.violated_irqPending (s : State) (c : ViolationClass) :
    (s.violated c).irqPending = false := rfl
@[simp] theorem State.violated_txLog (s : State) (c : ViolationClass) : (s.violated c).txLog = s.txLog := rfl
@[simp] theorem State.violated_violationLog (s : State) (c : ViolationClass) :
    (s.violated c).violationLog = s.violationLog ++ [⟨c, s.siodata⟩] := rfl
@[simp] theorem State.violated_inputs (s : State) (c : ViolationClass) : (s.violated c).inputs = s.inputs := rfl
@[simp] theorem State.violated_draws (s : State) (c : ViolationClass) : (s.violated c).draws = s.draws := rfl

@[simp] theorem completeTransfer_pstate (w : Word) (s : State) : (completeTransfer w s).pstate = s.pstate := rfl
@[simp] theorem completeTransfer_siodata (w : Word) (s : State) : (completeTransfer w s).siodata = w := rfl
@[simp] theorem completeTransfer_cmd (w : Word) (s : State) : (completeTransfer w s).cmd = s.cmd := rfl
@[simp] theorem completeTransfer_siocnt (w : Word) (s : State) :
    (completeTransfer w s).siocnt = s.siocnt &&& 0xFF7F#16 := rfl
@[simp] theorem completeTransfer_irqPending (w : Word) (s : State) :
    (completeTransfer w s).irqPending = true := rfl
@[simp] theorem completeTransfer_txLog (w : Word) (s : State) :
    (completeTransfer w s).txLog = s.txLog ++ [s.siodata] := rfl
@[simp] theorem completeTransfer_violationLog (w : Word) (s : State) :
    (completeTransfer w s).violationLog = s.violationLog := rfl
@[simp] theorem completeTransfer_inputs (w : Word) (s : State) : (completeTransfer w s).inputs = s.inputs := rfl
@[simp] theorem completeTransfer_draws (w : Word) (s : State) : (completeTransfer w s).draws = s.draws := rfl

@[simp] theorem hostEffect_pstate (op : HostOp) (s : State) : (hostEffect op s).pstate = s.pstate := by
  cases op <;> rfl
@[simp] theorem hostEffect_siodata (op : HostOp) (s : State) : (hostEffect op s).siodata = s.siodata := by
  cases op <;> rfl
@[simp] theorem hostEffect_irqPending (op : HostOp) (s : State) :
    (hostEffect op s).irqPending = s.irqPending := by
  cases op <;> rfl
@[simp] theorem hostEffect_txLog (op : HostOp) (s : State) : (hostEffect op s).txLog = s.txLog := by
  cases op <;> rfl
@[simp] theorem hostEffect_violationLog (op : HostOp) (s : State) :
    (hostEffect op s).violationLog = s.violationLog := by
  cases op <;> rfl
@[simp] theorem hostEffect_inputs (op : HostOp) (s : State) : (hostEffect op s).inputs = s.inputs := by
  cases op <;> rfl
@[simp] theorem hostEffect_draws (op : HostOp) (s : State) : (hostEffect op s).draws = s.draws := by
  cases op <;> rfl

/-- `UPDATE` writes `SIOCNT`, setting `START`. -/
@[simp] theorem hostEffect_update_siocnt (s : State) :
    (hostEffect .update s).siocnt = s.siocnt ||| 0x0080#16 := rfl

/-- A setter does not write `SIOCNT`. -/
theorem hostEffect_siocnt_of_setter {op : HostOp} (h : op ≠ .update) (s : State) :
    (hostEffect op s).siocnt = s.siocnt := by
  cases op with
  | setStart | setStop | setHardStop => rfl
  | update => exact absurd rfl h

/-- A `HOST` operation keeps the mode bits. -/
@[simp] theorem hostEffect_modeBits (op : HostOp) (s : State) :
    modeBits (hostEffect op s).siocnt = modeBits s.siocnt := by
  by_cases h : op = .update
  · rw [h, hostEffect_update_siocnt, modeBits_withStart]
  · rw [hostEffect_siocnt_of_setter h]

/-- A `HOST` operation never clears `START`. -/
theorem hostEffect_keeps_start {op : HostOp} {s : State} (hs : startFlag s.siocnt = true) :
    startFlag (hostEffect op s).siocnt = true := by
  by_cases h : op = .update
  · rw [h, hostEffect_update_siocnt, startFlag_withStart]
  · rwa [hostEffect_siocnt_of_setter h]

/-- A `HOST` operation keeps `CMD` or writes one of the three commands to it. -/
theorem hostEffect_cmd (op : HostOp) (s : State) :
    (hostEffect op s).cmd = s.cmd ∨ (hostEffect op s).CommandValid := by
  cases op with
  | setStart => exact .inr (.inr (.inr rfl))
  | setStop => exact .inr (.inl rfl)
  | setHardStop => exact .inr (.inr (.inl rfl))
  | update => exact .inl rfl

end Sys2Proof.Machine
end

section
/-! Which of those results an operation has, by its class (`isReplying`, `isReset`) and by its slot. -/

namespace Sys2Proof.Machine

/-! ### The classes and the slots of the operations -/

/-- No operation both replies and raises a violation. -/
theorem isReplying_of_isReset {i : Instr} (h : i.isReset = true) : i.isReplying = false := by
  cases i with
  | hs0Rst | hs1Rst | hs2Rst | hs3Rst | mg1Rst | mg2Rst | mg3Rst | sdRst => rfl
  | _ => cases h

@[simp] theorem hostInstr_isReplying (op : HostOp) : (hostInstr op).isReplying = false := by
  cases op <;> rfl
@[simp] theorem hostInstr_isReset (op : HostOp) : (hostInstr op).isReset = false := by
  cases op <;> rfl
@[simp] theorem encode_hostInstr_slot (op : HostOp) : (encode (hostInstr op)).1 = .host := by
  cases op <;> rfl

/-- The operations of the `HOST` slot are those of the four `HostOp`s. -/
theorem eq_hostInstr_of_slot {i : Instr} (h : (encode i).1 = .host) : ∃ op, i = hostInstr op := by
  cases i with
  | setStart => exact ⟨.setStart, rfl⟩
  | setStop => exact ⟨.setStop, rfl⟩
  | setHardStop => exact ⟨.setHardStop, rfl⟩
  | update => exact ⟨.update, rfl⟩
  | _ => cases h

/-- The operations of the link's slot are the transfers. -/
theorem eq_xfer_of_slot {i : Instr} (h : (encode i).1 = .link) : ∃ w, i = .xfer w := by
  cases i with
  | xfer w => exact ⟨w, rfl⟩
  | _ => cases h

/-! ### What an operation of each class or slot leaves -/

section
variable {i : Instr} {s t : State}

/-- A replying operation that completes leaves a reply. -/
theorem exec_replying_next (hi : i.isReplying = true) (h : exec i s = .next t) :
    ∃ p v, t = s.replied p v := by
  rcases exec_next_cases h with ⟨-, -, p, v, ht, -⟩ | ⟨hr, -, -⟩ | ⟨op, rfl, -, -⟩ | ⟨w, rfl, -, -⟩
  · exact ⟨p, v, ht⟩
  · simp [isReplying_of_isReset hr] at hi
  · simp at hi
  · cases hi

/-- A `*_RST` operation that completes leaves a violation. -/
theorem exec_reset_next (hi : i.isReset = true) (h : exec i s = .next t) : ∃ c, t = s.violated c := by
  rcases exec_next_cases h with ⟨hr, -, -⟩ | ⟨-, -, c, ht⟩ | ⟨op, rfl, -, -⟩ | ⟨w, rfl, -, -⟩
  · simp [isReplying_of_isReset hi] at hr
  · exact ⟨c, ht⟩
  · simp at hi
  · cases hi

/-- An interrupt operation that completes leaves a reply or a violation. -/
theorem exec_irq_next {p : PState} (hi : (encode i).1 = .irq p) (h : exec i s = .next t) :
    (∃ q v, t = s.replied q v) ∨ ∃ c, t = s.violated c := by
  rcases exec_next_cases h with ⟨-, -, q, v, ht, -⟩ | ⟨-, -, hc⟩ | ⟨op, rfl, -, -⟩ | ⟨w, rfl, -, -⟩
  · exact .inl ⟨q, v, ht⟩
  · exact .inr hc
  · simp at hi
  · cases hi

/-- A setter that completes keeps `SIOCNT`. -/
theorem exec_setter_siocnt {op : HostOp} (hop : op ≠ .update) (h : exec (hostInstr op) s = .next t) :
    t.siocnt = s.siocnt := by
  obtain ⟨-, rfl⟩ := exec_hostInstr_iff.mp h
  exact hostEffect_siocnt_of_setter hop s

/-- No operation changes a bit of `SIOCNT` other than bit 7 (R28, R206). -/
theorem exec_keeps_modeBits (h : exec i s = .next t) : modeBits t.siocnt = modeBits s.siocnt := by
  rcases exec_next_cases h with ⟨-, -, p, v, rfl, -⟩ | ⟨-, -, c, rfl⟩ | ⟨op, -, -, rfl⟩ | ⟨w, -, -, -, rfl⟩
  · simp
  · simp
  · simp
  · simp

/-- No operation touches the model's own request list and draw counter: only `fetch` does. -/
theorem exec_keeps_requests (h : exec i s = .next t) : t.inputs = s.inputs ∧ t.draws = s.draws := by
  rcases exec_next_cases h with ⟨-, -, p, v, rfl, -⟩ | ⟨-, -, c, rfl⟩ | ⟨op, -, -, rfl⟩ | ⟨w, -, -, -, rfl⟩
  · simp
  · simp
  · simp
  · simp

/-- Only a transfer clears `START`. -/
theorem eq_xfer_of_start_cleared (h : exec i s = .next t) (hs : startFlag s.siocnt = true)
    (ht : startFlag t.siocnt = false) : ∃ w, i = .xfer w := by
  rcases exec_next_cases h with ⟨-, -, p, v, rfl, -⟩ | ⟨-, -, c, rfl⟩ | ⟨op, -, -, rfl⟩ | ⟨w, hi, -⟩
  · simp at ht
  · simp [hs] at ht
  · simp [hostEffect_keeps_start hs] at ht
  · exact ⟨w, hi⟩

end

/-! ### Frames of the agents and the life of `START` -/

/-- Settles O32, slot by slot: an interrupt operation leaves a reply or a violation, and the other two
slots have one result each. -/
theorem eachAgentKeepsToItsRegisters : Obligations.EachAgentKeepsToItsRegisters := by
  intro i s t h
  refine ⟨fun p hi => ?irq, fun hi => ?host, fun hi => ?link, exec_keeps_modeBits h, exec_keeps_requests h⟩
  case irq =>
    rcases exec_irq_next hi h with ⟨q, v, rfl⟩ | ⟨c, rfl⟩
    · simp
    · simp
  case host =>
    obtain ⟨op, rfl⟩ := eq_hostInstr_of_slot hi
    obtain ⟨-, rfl⟩ := exec_hostInstr_iff.mp h
    simp
  case link =>
    obtain ⟨w, rfl⟩ := eq_xfer_of_slot hi
    obtain ⟨-, -, rfl⟩ := exec_xfer_iff.mp h
    simp

/-- Settles O33, from the result that each class of operations has. -/
theorem startIsSetKeptAndCleared : Obligations.StartIsSetKeptAndCleared := by
  intro i s t h
  refine ⟨?set, ?kept, eq_xfer_of_start_cleared h, ?cleared⟩
  case set =>
    rintro (hi | rfl)
    · obtain ⟨p, v, rfl⟩ := exec_replying_next hi h
      simp
    · obtain ⟨-, rfl⟩ := exec_hostInstr_iff (op := .update).mp h
      simp
  case kept =>
    rintro (hi | rfl | rfl | rfl)
    · obtain ⟨c, rfl⟩ := exec_reset_next hi h
      simp
    · exact exec_setter_siocnt (op := .setStart) (by decide) h
    · exact exec_setter_siocnt (op := .setStop) (by decide) h
    · exact exec_setter_siocnt (op := .setHardStop) (by decide) h
  case cleared =>
    rintro w rfl
    obtain ⟨-, hs, rfl⟩ := exec_xfer_iff.mp h
    exact ⟨hs, by simp⟩

end Sys2Proof.Machine
end

section
/-! What every step keeps: the mode bits, the range of `CMD`, no interrupt pending with the link armed, and
the order of the protocol states; with the arming state that the invariants start from. -/

namespace Sys2Proof.Machine

/-! ### One step -/

section
variable {s t : State}

/-- No step changes a bit of `SIOCNT` other than bit 7. -/
theorem step_keeps_modeBits (h : step s = .next t) : modeBits t.siocnt = modeBits s.siocnt := by
  rcases step_next_cases h with ⟨-, h⟩ | ⟨-, l, n, ⟨op, h⟩ | ⟨w, h⟩⟩
  · exact exec_keeps_modeBits h
  · exact (exec_keeps_modeBits h).trans rfl
  · exact (exec_keeps_modeBits h).trans rfl

/-- A step keeps `CMD` or leaves one of the three commands in it, whatever it held. -/
theorem step_cmd (h : step s = .next t) : t.cmd = s.cmd ∨ t.CommandValid := by
  rcases step_next_kinds h with ⟨-, p, v, rfl, -⟩ | ⟨-, c, rfl⟩ | ⟨-, l, n, op, rfl⟩ | ⟨-, -, l, n, w, rfl⟩
  · exact .inl rfl
  · exact .inl rfl
  · exact hostEffect_cmd op _
  · exact .inl rfl

/-- Every step keeps it that `CMD` is one of the three commands (R27). -/
theorem step_keeps_commandValid (hs : s.CommandValid) (h : step s = .next t) : t.CommandValid := by
  rcases step_cmd h with hcmd | hvalid
  · rwa [State.CommandValid, hcmd]
  · exact hvalid

/-- After any step no interrupt is pending with the link armed, even where one was before: an interrupt
step takes the interrupt, a `HOST` step runs with none pending, and a transfer clears `START`. -/
theorem step_pendingUnarmed (h : step s = .next t) : t.PendingUnarmed := by
  intro hpending
  rcases step_next_kinds h with ⟨-, p, v, rfl, -⟩ | ⟨-, c, rfl⟩ | ⟨hidle, l, n, op, rfl⟩ |
    ⟨-, -, l, n, w, rfl⟩
  · simp at hpending
  · simp at hpending
  · simp [hidle] at hpending
  · simp

/-- Every step keeps the invariant of the block. -/
theorem step_keeps_inv (hs : s.Inv) (h : step s = .next t) : t.Inv :=
  ⟨step_keeps_commandValid hs.1 h, step_pendingUnarmed h⟩

/-- A step keeps `PSTATE`, moves it to its one successor, or resets it (R23). -/
theorem step_pstate (h : step s = .next t) :
    t.pstate = s.pstate ∨ successor s.pstate = some t.pstate ∨ t.pstate = .hs0 := by
  rcases step_next_kinds h with ⟨-, p, v, rfl, hp, -⟩ | ⟨-, c, rfl⟩ | ⟨-, l, n, op, rfl⟩ |
    ⟨-, -, l, n, w, rfl⟩
  · exact hp.imp_right .inl
  · exact .inr (.inr rfl)
  · exact .inl (hostEffect_pstate op _)
  · exact .inl rfl

end

/-- What every step keeps, every run keeps. -/
theorem run_keeps {P : State → Prop} (hstep : ∀ s t, P s → step s = .next t → P t) {n : Nat} {s t : State}
    (hs : P s) (h : Host.Core.run Sys2Proof.core n s = .next t) : P t := by
  induction n generalizing s with
  | zero =>
    cases h
    exact hs
  | succ n ih =>
    obtain ⟨u, hu, hrun⟩ := run_succ_next_iff.mp h
    exact ih (hstep s u hs hu) hrun

/-! ### At arming -/

/-- Each value of the open parameter `CMD_RESET` is a command. -/
theorem armed_commandValid (p : ResetParams) : (State.armed p).CommandValid := by
  rw [State.CommandValid, State.armed]
  cases p.cmdReset with
  | stop => exact .inl rfl
  | hardStop => exact .inr (.inl rfl)
  | start => exact .inr (.inr rfl)

/-- At arming no interrupt is pending. -/
theorem armed_pendingUnarmed (p : ResetParams) : (State.armed p).PendingUnarmed := by
  intro hpending
  cases hpending

theorem armed_inv (p : ResetParams) : (State.armed p).Inv :=
  ⟨armed_commandValid p, armed_pendingUnarmed p⟩

/-! ### The obligations -/

/-- Settles O37. -/
theorem everyStepKeepsTheInvariant : Obligations.EveryStepKeepsTheInvariant :=
  fun _ _ hs h => step_keeps_inv hs h

/-- Settles O38: the model's reset is one of the arming states. -/
theorem invariantHoldsAtArming : Obligations.InvariantHoldsAtArming :=
  ⟨armed_inv, armed_inv ResetParams.simulator⟩

/-- Settles O39: having the mode bits of the first state is kept along the run. -/
theorem everyStepKeepsTheModeBits : Obligations.EveryStepKeepsTheModeBits := by
  intro n s t h
  exact run_keeps (P := fun u => modeBits u.siocnt = modeBits s.siocnt)
    (fun _ _ hu hstep => (step_keeps_modeBits hstep).trans hu) rfl h

/-- Settles O23. -/
theorem protocolStateAdvancesHoldsOrResets : Obligations.ProtocolStateAdvancesHoldsOrResets :=
  ⟨fun _ => rfl, fun _ _ h => step_pstate h⟩

end Sys2Proof.Machine
end

section
/-! Who reads `CMD`: the poll word in `SendData` is answered with its content, and every other interrupt
operation does the same whatever it holds. -/

namespace Sys2Proof.Machine

/-- The poll word in `SendData` is answered with the content of `CMD`, whatever 32 bits it holds. -/
theorem step_poll {s : State} (h : s.Waiting .sendData poll) :
    step s = .next (s.replied .sendData s.cmd) := by
  have hdecode : decodeIrq .sendData poll = .sdPoll := by decide
  obtain ⟨hpending, hpstate, hword⟩ := h
  calc step s
      = exec .sdPoll s := by rw [step_pending hpending, hpstate, hword, hdecode]
    _ = .next (reply s.cmd (writePending false s)) :=
        (exec_sdPoll s).trans (interruptStep_of_waiting ⟨hpending, hpstate, hword⟩ rfl)
    _ = .next (s.replied .sendData s.cmd) := by rw [reply_of_held, hpstate]

/-- Settles O28. -/
theorem commandStaysOneOfThree : Obligations.CommandStaysOneOfThree :=
  ⟨armed_commandValid, fun _ _ hs h => step_keeps_commandValid hs h,
    fun s h => ⟨s.replied .sendData s.cmd, step_poll h, rfl, rfl⟩⟩

/-- An interrupt operation whose effect commutes with replacing `CMD` does the same whatever `CMD` holds:
whether it is selected does not depend on it. -/
theorem interruptStep_withCmd {p : PState} {v : Word} {g : Word → Bool} {body : Word → State → State}
    {s t : State} {c : Word} (hbody : ∀ u : State, body v { u with cmd := c } = { body v u with cmd := c })
    (h : interruptStep p v g body s = .next t) :
    interruptStep p v g body { s with cmd := c } = .next { t with cmd := c } := by
  obtain ⟨hw, hg, rfl⟩ := interruptStep_next_iff.mp h
  exact interruptStep_next_iff.mpr ⟨hw, hg, (hbody (writePending false s)).symm⟩

/-- An operation that completes under a pending interrupt, where no poll waits, does the same whatever
`CMD` holds: it is one of the nineteen interrupt operations other than `SD_POLL`. -/
theorem exec_withCmd {i : Instr} {s t : State} (c : Word) (hpending : s.irqPending = true)
    (hpoll : ¬ s.Waiting .sendData poll) (h : exec i s = .next t) :
    exec i { s with cmd := c } = .next { t with cmd := c } := by
  cases i with
  | hs0Ack | hs1Ack | hs2Ack | hs3Ack =>
    simp only [exec_hs0Ack, exec_hs1Ack, exec_hs2Ack, exec_hs3Ack] at h ⊢
    exact interruptStep_withCmd (fun _ => rfl) h
  | hs0Nak | hs1Nak | hs2Nak | hs3Nak =>
    simp only [exec_hs0Nak, exec_hs1Nak, exec_hs2Nak, exec_hs3Nak] at h ⊢
    exact interruptStep_withCmd (fun _ => rfl) h
  | hs0Rst | hs1Rst | hs2Rst | hs3Rst =>
    simp only [exec_hs0Rst, exec_hs1Rst, exec_hs2Rst, exec_hs3Rst] at h ⊢
    exact interruptStep_withCmd (fun _ => rfl) h
  | mg1Ok | mg2Ok | mg3Ok =>
    simp only [exec_mg1Ok, exec_mg2Ok, exec_mg3Ok] at h ⊢
    exact interruptStep_withCmd (fun _ => rfl) h
  | mg1Rst | mg2Rst | mg3Rst | sdRst =>
    simp only [exec_mg1Rst, exec_mg2Rst, exec_mg3Rst, exec_sdRst] at h ⊢
    exact interruptStep_withCmd (fun _ => rfl) h
  | sdPoll =>
    rw [exec_sdPoll] at h
    exact absurd (interruptStep_next_iff.mp h).1 hpoll
  | setStart | setStop | setHardStop | update =>
    obtain ⟨hidle, -⟩ := hostStep_next_iff.mp h
    simp [hidle] at hpending
  | xfer w =>
    obtain ⟨hidle, -⟩ := exec_xfer_iff.mp h
    simp [hidle] at hpending

/-- Settles O30: replacing `CMD` changes neither which operation is decoded nor what it does. -/
theorem onlyPollReadsTheCommand : Obligations.OnlyPollReadsTheCommand := by
  intro s t c hpending hpoll h
  rw [step_pending hpending] at h
  exact (step_pending (s := { s with cmd := c }) hpending).trans (exec_withCmd c hpending hpoll h)

end Sys2Proof.Machine
end

section
/-! The 3-bit code of `PSTATE`. -/

namespace Sys2Proof

theorem pstateOfCode_pstateCode (p : PState) : pstateOfCode (pstateCode p) = p := by
  cases p <;> rfl

theorem pstateCode_pstateOfCode (c : BitVec 3) : pstateCode (pstateOfCode c) = c := by
  revert c
  decide

/-- The advancing successor is one code on. -/
theorem pstateCode_successor {p q : PState} (h : successor p = some q) :
    pstateCode q = pstateCode p + 1 := by
  cases p <;> cases h <;> rfl

/-- Settles O25. -/
theorem protocolStateCodeIsExact : Obligations.ProtocolStateCodeIsExact :=
  ⟨pstateOfCode_pstateCode, pstateCode_pstateOfCode, fun _ _ => pstateCode_successor,
    rfl, rfl, rfl, rfl, rfl, rfl, rfl, rfl⟩

end Sys2Proof
end

section
/-! The requests of the main loop that are none of its operations: a bare access is refused as
`accessRefusal` says, a word that encodes no operation as a breach of the discipline. -/

namespace Sys2Proof.Machine

section
variable {s : State} {rest : List Input}

/-- A bare access is refused, by the name that `accessRefusal` gives it. -/
theorem step_hostAccess {a : RegAccess} (hidle : s.irqPending = false)
    (hi : s.inputs = .hostAccess a :: rest) :
    step s = .refused (accessRefusal Config.serialAddrs a) := by
  rw [step, fetch_request hidle hi]
  rfl

/-- A request word that decodes to no operation is refused as a breach of the discipline. -/
theorem step_host_rejected {w : Word} {e : DecodeReject} (hidle : s.irqPending = false)
    (hi : s.inputs = .host w :: rest) (hd : decodeHost w = .error e) :
    step s = .refused .hostDiscipline := by
  rw [step, fetch_request hidle hi]
  simp only [fetchInput, decode, hd, rejectRefusal]

end

/-- The words of R84 are the only ones that decode to a `HOST` operation. -/
theorem decodeHost_other {w : Word} (h1 : w ≠ 0x40000026#32) (h2 : w ≠ 0x40000004#32)
    (h3 : w ≠ 0x40000015#32) (h4 : w ≠ 0x00000080#32) :
    decodeHost w = .error (.notAHostOperation w) := by
  rw [decodeHost, if_neg h1, if_neg h2, if_neg h3, if_neg h4]

section
variable {m : SerialAddrs} {a : RegAccess} {addr n : Nat}

/-- An access to `PSTATE` or `CMD`, which have no address, is a breach of the discipline. -/
theorem accessRefusal_cell (h : a.place = .pstate ∨ a.place = .cmd) :
    accessRefusal m a = .hostDiscipline := by
  rcases h with h | h
  · rw [accessRefusal, h]
  · rw [accessRefusal, h]

/-- An access that reaches a whole register is a breach of the discipline. -/
theorem accessRefusal_of_reaches {r : Register} (h : a.place = .bus addr n)
    (hr : busRegister m addr n = .ok r) : accessRefusal m a = .hostDiscipline := by
  simp only [accessRefusal, h, hr]

/-- An access that reaches no register is refused as the interface refuses it. -/
theorem accessRefusal_of_error {e : Refusal} (h : a.place = .bus addr n)
    (he : busRegister m addr n = .error e) : accessRefusal m a = e := by
  simp only [accessRefusal, h, he]

/-- Off both addresses an access is refused by whether it touches a byte of either register. -/
theorem accessRefusal_other (h : a.place = .bus addr n) (h1 : addr ≠ m.siodata) (h2 : addr ≠ m.siocnt) :
    accessRefusal m a =
      if 0 < n ∧ (addr < m.siodata + 4 ∧ m.siodata < addr + n ∨ addr < m.siocnt + 2 ∧ m.siocnt < addr + n)
      then .partialAccess else .outsideBlock := by
  have hbus := busRegister_other (n := n) h1 h2
  simp only [Bool.or_eq_true, touches_iff, ← and_or_left] at hbus
  split_ifs with htouch
  · exact accessRefusal_of_error h (by rw [hbus, if_pos htouch])
  · exact accessRefusal_of_error h (by rw [hbus, if_neg htouch])

end

/-- Settles O36: the refusal of an access is decided by what it reaches on the interface. -/
theorem otherHostRequestsAreRefused : Obligations.OtherHostRequestsAreRefused := by
  intro s rest hidle
  refine ⟨fun a hi => ?access, fun w hi h1 h2 h3 h4 => ?word⟩
  case word => exact step_host_rejected hidle hi (decodeHost_other h1 h2 h3 h4)
  case access =>
    rw [step_hostAccess hidle hi]
    refine ⟨?cells, ?whole, ?siodata, ?siocnt, ?other⟩
    case cells =>
      intro h
      rw [accessRefusal_cell h]
    case whole =>
      rintro (h | h)
      · rw [accessRefusal_of_reaches h (busRegister_siodata _ 4)]
      · rw [accessRefusal_of_reaches h (busRegister_siocnt _ 2)]
    case siodata =>
      intro n hn h
      rw [accessRefusal_of_error h (busRegister_siodata_partial _ hn)]
    case siocnt =>
      intro n hn h
      rw [accessRefusal_of_error h (busRegister_siocnt_partial _ hn)]
    case other =>
      intro addr n h1 h2 h
      rw [accessRefusal_other h h1 h2]
      split_ifs
      · rfl
      · rfl

end Sys2Proof.Machine
end

section
/-! A split `UPDATE` (O45): a pending interrupt is always taken, because the decoder selects an operation
whose own condition holds; and taking it clears no bit of `SIOCNT` that an `UPDATE` would not set again. -/

namespace Sys2Proof.Machine

/-! ### The selected operation is enabled -/

/-- The operation selected in a state for a word is encoded as that word in that state (R77). -/
theorem encode_decodeIrq (p : PState) (w : Word) : encode (decodeIrq p w) = (.irq p, w) := by
  have hjoin : ∀ k : Half, low16 w = k → joinHalves (high16 w) k = w := by
    rintro _ rfl
    exact joinHalves_high16_low16 w
  cases p with
  | hs0 | hs1 | hs2 | hs3 =>
    simp only [decodeIrq, rowSelects_all, rowSelects_key0, rowSelects_key1, rowSelects_key2,
      rowSelects_key3, beq_iff_eq]
    split_ifs with hfull hkey
    · rw [hfull]
      rfl
    · exact congrArg (Prod.mk _) (hjoin _ hkey)
    · exact congrArg (Prod.mk _) (hjoin _ rfl)
  | mg1 | mg2 | mg3 | sendData =>
    simp only [decodeIrq, rowSelects_all, beq_iff_eq]
    split_ifs with hword
    · rw [hword]
      rfl
    · rfl

/-- The operation selected for a word meets its row's condition: the rows before it did not take the
word (R77, R78). -/
theorem wellFormed_decodeIrq (p : PState) (w : Word) : (decodeIrq p w).wellFormed = true := by
  cases p with
  | hs0 | hs1 | hs2 | hs3 =>
    simp only [decodeIrq, rowSelects_all, rowSelects_key0, rowSelects_key1, rowSelects_key2,
      rowSelects_key3, beq_iff_eq, word_eq_iff w]
    split_ifs with hfull hkey
    · rfl
    · exact bne_iff_ne.mpr fun hchk => hfull ⟨hchk, hkey⟩
    · exact bne_iff_ne.mpr hkey
  | mg1 | mg2 | mg3 | sendData =>
    simp only [decodeIrq, rowSelects_all, beq_iff_eq]
    split_ifs with hword
    · rfl
    · exact bne_iff_ne.mpr hword

/-- On a word with the key in its low half, the key-only match tests the check field. -/
theorem keyOnlyMatch_joinHalves_key (k : Fin 4) (chk : Half) :
    keyOnlyMatch k (joinHalves chk (key k)) = (chk != not16 (key k)) := by
  rw [keyOnlyMatch, low16_joinHalves, high16_joinHalves, beq_self_eq_true, Bool.true_and]

/-- The key mismatch tests the key field. -/
theorem keyMismatch_joinHalves (k : Fin 4) (chk keyf : Half) :
    keyMismatch k (joinHalves chk keyf) = (keyf != key k) := by
  rw [keyMismatch, low16_joinHalves]

/-- A well-formed interrupt operation completes where its own word waits in its own state. -/
theorem exec_of_waiting {i : Instr} {p : PState} {w : Word} {s : State} (hi : encode i = (.irq p, w))
    (hwf : i.wellFormed = true) (hs : s.Waiting p w) : ∃ t, exec i s = .next t := by
  cases i with
  | hs0Ack | hs1Ack | hs2Ack | hs3Ack =>
    cases hi
    simp only [exec_hs0Ack, exec_hs1Ack, exec_hs2Ack, exec_hs3Ack]
    exact ⟨_, interruptStep_of_waiting hs (by decide)⟩
  | mg1Ok | mg2Ok | mg3Ok | sdPoll =>
    cases hi
    simp only [exec_mg1Ok, exec_mg2Ok, exec_mg3Ok, exec_sdPoll]
    exact ⟨_, interruptStep_of_waiting hs rfl⟩
  | hs0Nak chk | hs1Nak chk | hs2Nak chk | hs3Nak chk =>
    cases hi
    simp only [exec_hs0Nak, exec_hs1Nak, exec_hs2Nak, exec_hs3Nak]
    exact ⟨_, interruptStep_of_waiting hs ((keyOnlyMatch_joinHalves_key _ chk).trans hwf)⟩
  | hs0Rst chk keyf | hs1Rst chk keyf | hs2Rst chk keyf | hs3Rst chk keyf =>
    cases hi
    simp only [exec_hs0Rst, exec_hs1Rst, exec_hs2Rst, exec_hs3Rst]
    exact ⟨_, interruptStep_of_waiting hs ((keyMismatch_joinHalves _ chk keyf).trans hwf)⟩
  | mg1Rst lit | mg2Rst lit | mg3Rst lit | sdRst lit =>
    cases hi
    simp only [exec_mg1Rst, exec_mg2Rst, exec_mg3Rst, exec_sdRst]
    exact ⟨_, interruptStep_of_waiting hs hwf⟩
  | setStart | setStop | setHardStop | update | xfer w => cases hi

/-- With an interrupt pending the interrupt step completes, whatever the protocol state and the received
word (R81). -/
theorem exec_decodeIrq_completes {s : State} (h : s.irqPending = true) :
    ∃ t, exec (decodeIrq s.pstate s.siodata) s = .next t :=
  exec_of_waiting (encode_decodeIrq _ _) (wellFormed_decodeIrq _ _) ⟨h, rfl, rfl⟩

/-- An interrupt operation that completes has taken the interrupt. -/
theorem irqPending_of_exec_irq {i : Instr} {p : PState} {s t : State} (hi : (encode i).1 = .irq p)
    (h : exec i s = .next t) : t.irqPending = false := by
  rcases exec_irq_next hi h with ⟨q, v, rfl⟩ | ⟨c, rfl⟩
  · exact State.replied_irqPending s q v
  · exact State.violated_irqPending s c

/-! ### The split `UPDATE` -/

/-- Setting `START` loses what bit 7 was: only the mode bits count. -/
theorem withStart_eq_of_modeBits {v v' : Half} (h : modeBits v = modeBits v') :
    v ||| 0x0080#16 = v' ||| 0x0080#16 := by
  apply BitVec.eq_of_getLsbD_eq
  intro n _
  by_cases hn : n = 7
  · subst hn
    exact (startFlag_withStart v).trans (startFlag_withStart v').symm
  · rw [getLsbD_withStart v hn, getLsbD_withStart v' hn, ← getLsbD_withoutStart v hn,
      ← getLsbD_withoutStart v' hn]
    exact congrArg (·.getLsbD n) h

/-- Settles O45: the transfer and the interrupt step keep the mode bits, and the `UPDATE` after them
depends on nothing else of `SIOCNT`. -/
theorem splitUpdateEqualsOrderedUpdate : Obligations.SplitUpdateEqualsOrderedUpdate := by
  refine ⟨arm_eq, fun s w hidle hstart => ?_⟩
  have hxfer : exec (.xfer w) s = .next (completeTransfer w s) := exec_xfer_iff.mpr ⟨hidle, hstart, rfl⟩
  obtain ⟨u, hirq⟩ := exec_decodeIrq_completes (completeTransfer_irqPending w s)
  have htaken : u.irqPending = false :=
    irqPending_of_exec_irq (congrArg Prod.fst (encode_decodeIrq _ _)) hirq
  have hupdate : exec (hostInstr .update) u = .next (hostEffect .update u) :=
    exec_hostInstr_iff.mpr ⟨htaken, rfl⟩
  have hmode : modeBits u.siocnt = modeBits s.siocnt :=
    (exec_keeps_modeBits hirq).trans (exec_keeps_modeBits hxfer)
  refine ⟨hostEffect .update u, ?runs, withStart_eq_of_modeBits hmode⟩
  exact runTrace_cons_next_iff.mpr ⟨_, hxfer,
    runTrace_cons_next_iff.mpr ⟨u, hirq, runTrace_cons_next_iff.mpr ⟨_, hupdate, rfl⟩⟩⟩

end Sys2Proof.Machine
end

section
/-! Encoding (O10, O11, O12): the decoder in the words of the encodings, one equation for each protocol
state, and the two directions of the round trip. -/

namespace Sys2Proof.Machine

/-! ### What the decoder selects -/

/-- The fully matching word has the key in its low half and the complement in its high half (R71). -/
theorem eq_fullWord_iff (k : Fin 4) (w : Word) :
    w = fullWord k ↔ low16 w = key k ∧ high16 w = not16 (key k) := by
  rw [word_eq_iff, fullWord, high16_joinHalves, low16_joinHalves, and_comm]

theorem decodeIrq_hs0 (w : Word) : decodeIrq .hs0 w =
    if w = fullWord 0 then .hs0Ack
    else if low16 w = key 0 then .hs0Nak (high16 w) else .hs0Rst (high16 w) (low16 w) := by
  simp only [decodeIrq, rowSelects_all, rowSelects_key0, beq_iff_eq]
  rfl

theorem decodeIrq_hs1 (w : Word) : decodeIrq .hs1 w =
    if w = fullWord 1 then .hs1Ack
    else if low16 w = key 1 then .hs1Nak (high16 w) else .hs1Rst (high16 w) (low16 w) := by
  simp only [decodeIrq, rowSelects_all, rowSelects_key1, beq_iff_eq]
  rfl

theorem decodeIrq_hs2 (w : Word) : decodeIrq .hs2 w =
    if w = fullWord 2 then .hs2Ack
    else if low16 w = key 2 then .hs2Nak (high16 w) else .hs2Rst (high16 w) (low16 w) := by
  simp only [decodeIrq, rowSelects_all, rowSelects_key2, beq_iff_eq]
  rfl

theorem decodeIrq_hs3 (w : Word) : decodeIrq .hs3 w =
    if w = fullWord 3 then .hs3Ack
    else if low16 w = key 3 then .hs3Nak (high16 w) else .hs3Rst (high16 w) (low16 w) := by
  simp only [decodeIrq, rowSelects_all, rowSelects_key3, beq_iff_eq]
  rfl

theorem decodeIrq_mg1 (w : Word) : decodeIrq .mg1 w = if w = magic 0 then .mg1Ok else .mg1Rst w := by
  simp only [decodeIrq, rowSelects_all, beq_iff_eq]
  rfl

theorem decodeIrq_mg2 (w : Word) : decodeIrq .mg2 w = if w = magic 1 then .mg2Ok else .mg2Rst w := by
  simp only [decodeIrq, rowSelects_all, beq_iff_eq]
  rfl

theorem decodeIrq_mg3 (w : Word) : decodeIrq .mg3 w = if w = magic 2 then .mg3Ok else .mg3Rst w := by
  simp only [decodeIrq, rowSelects_all, beq_iff_eq]
  rfl

theorem decodeIrq_sendData (w : Word) :
    decodeIrq .sendData w = if w = poll then .sdPoll else .sdRst w := by
  simp only [decodeIrq, rowSelects_all, beq_iff_eq]
  rfl

/-! ### The round trip of each slot -/

/-- The word of a well-formed interrupt operation selects that operation in its state: the rows above it
do not take the word. -/
theorem decodeIrq_of_encode {i : Instr} {p : PState} {w : Word} (hwf : i.wellFormed = true)
    (hi : encode i = (.irq p, w)) : decodeIrq p w = i := by
  cases i with
  | hs0Ack | hs1Ack | hs2Ack | hs3Ack | mg1Ok | mg2Ok | mg3Ok | sdPoll =>
    cases hi
    rfl
  | hs0Nak chk | hs1Nak chk | hs2Nak chk | hs3Nak chk =>
    cases hi
    have hchk := bne_iff_ne.mp hwf
    simp only [decodeIrq_hs0, decodeIrq_hs1, decodeIrq_hs2, decodeIrq_hs3, eq_fullWord_iff,
      low16_joinHalves, high16_joinHalves, hchk, and_false, if_false, if_true]
  | hs0Rst chk keyf | hs1Rst chk keyf | hs2Rst chk keyf | hs3Rst chk keyf =>
    cases hi
    have hkey := bne_iff_ne.mp hwf
    simp only [decodeIrq_hs0, decodeIrq_hs1, decodeIrq_hs2, decodeIrq_hs3, eq_fullWord_iff,
      low16_joinHalves, high16_joinHalves, hkey, false_and, if_false]
  | mg1Rst lit | mg2Rst lit | mg3Rst lit | sdRst lit =>
    cases hi
    have hlit := bne_iff_ne.mp hwf
    simp only [decodeIrq_mg1, decodeIrq_mg2, decodeIrq_mg3, decodeIrq_sendData, hlit, if_false]
  | setStart | setStop | setHardStop | update | xfer w => cases hi

theorem encode_hostInstr (op : HostOp) : encode (hostInstr op) = (.host, hostWord op) := by
  cases op <;> rfl

theorem wellFormed_hostInstr (op : HostOp) : (hostInstr op).wellFormed = true := by
  cases op <;> rfl

/-- The words that decode to a `HOST` operation are the four encodings (R84). -/
theorem decodeHost_ok_iff {w : Word} {i : Instr} :
    decodeHost w = .ok i ↔ ∃ op, w = hostWord op ∧ i = hostInstr op := by
  constructor
  · intro h
    unfold decodeHost at h
    split_ifs at h with hstart hstop hhard hupdate
    · exact ⟨.setStart, hstart, by cases h; rfl⟩
    · exact ⟨.setStop, hstop, by cases h; rfl⟩
    · exact ⟨.setHardStop, hhard, by cases h; rfl⟩
    · exact ⟨.update, hupdate, by cases h; rfl⟩
  · rintro ⟨op, rfl, rfl⟩
    exact decodeHost_hostWord op

/-! ### The obligations -/

/-- Settles O10, slot by slot. -/
theorem decodeOfEncode : Obligations.DecodeOfEncode := by
  intro i hwf
  rcases hi : encode i with ⟨slot, w⟩
  cases slot with
  | irq p => exact congrArg Except.ok (decodeIrq_of_encode hwf hi)
  | host =>
    obtain ⟨op, rfl⟩ := eq_hostInstr_of_slot (congrArg Prod.fst hi)
    rw [encode_hostInstr] at hi
    cases hi
    exact decodeHost_hostWord op
  | link =>
    obtain ⟨v, rfl⟩ := eq_xfer_of_slot (congrArg Prod.fst hi)
    cases hi
    rfl

/-- Settles O11, slot by slot. -/
theorem encodeOfDecode : Obligations.EncodeOfDecode := by
  intro slot w i h
  cases slot with
  | irq p =>
    cases h
    exact ⟨wellFormed_decodeIrq p w, encode_decodeIrq p w⟩
  | host =>
    obtain ⟨op, rfl, rfl⟩ := decodeHost_ok_iff.mp h
    exact ⟨wellFormed_hostInstr op, encode_hostInstr op⟩
  | link =>
    cases h
    exact ⟨rfl, rfl⟩

/-- Settles O12: each of the words is the encoding of its operation. -/
theorem sampleWordsDecode : Obligations.SampleWordsDecode :=
  ⟨decodeOfEncode .hs0Ack rfl,
    decodeOfEncode (.hs2Nak 0x0000#16) rfl,
    decodeOfEncode (.hs3Rst 0x4F44#16 0xB0BB#16) rfl,
    decodeOfEncode .mg2Ok rfl,
    decodeOfEncode (.mg1Rst 0x8000B0BB#32) rfl,
    decodeOfEncode .sdPoll rfl,
    decodeOfEncode .setHardStop rfl,
    decodeOfEncode .update rfl,
    decodeOfEncode (.xfer 0x30000003#32) rfl⟩

end Sys2Proof.Machine
end

section
/-! Every interrupt operation that completes does what the wrapper around `STEP` does (O18): the condition
of its row is the arm of `STEP` that applies. -/

namespace Sys2Proof.Machine

/-! ### The arms of `STEP` -/

section
variable {k : Fin 4} {self next : PState} {ack w : Word}

theorem handshakeArm_of_fullMatch (h : fullMatch k w = true) :
    handshakeArm k self next ack w = (next, some ack) := by
  simp only [fullMatch, Bool.and_eq_true, beq_iff_eq] at h
  rw [handshakeArm, if_pos h]

theorem handshakeArm_of_keyOnlyMatch (h : keyOnlyMatch k w = true) :
    handshakeArm k self next ack w = (self, some (nakReply (key k))) := by
  simp only [keyOnlyMatch, Bool.and_eq_true, beq_iff_eq, bne_iff_ne] at h
  rw [handshakeArm, if_neg fun hfull => h.2 hfull.2, if_pos h, nakReply]

theorem handshakeArm_of_keyMismatch (h : keyMismatch k w = true) :
    handshakeArm k self next ack w = (.hs0, none) := by
  have hkey := bne_iff_ne.mp h
  rw [handshakeArm, if_neg fun hfull => hkey hfull.1, if_neg fun honly => hkey honly.1]

end

/-! ### The wrapper -/

section
variable {s : State} {p : PState} {w : Word}

/-- Where `STEP` replies, the wrapper leaves that reply. -/
theorem irqWrapper_of_reply {q : PState} {v : Word} (hs : s.Waiting p w)
    (h : stepFn p w s.cmd = (q, some v)) : irqWrapper s = s.replied q v := by
  obtain ⟨-, rfl, rfl⟩ := hs
  simp only [irqWrapper, readSiodata_eq, readPstate_eq, readCmd_eq, writePending_siodata,
    writePending_pstate, writePending_cmd, h, reply_of_writePstate]

/-- Where `STEP` does not reply, the wrapper leaves a violation with the label of the state. -/
theorem irqWrapper_of_violation (hs : s.Waiting p w) (h : stepFn p w s.cmd = (.hs0, none)) :
    irqWrapper s = s.violated (violationClass p) := by
  obtain ⟨-, rfl, rfl⟩ := hs
  simp only [irqWrapper, readSiodata_eq, readPstate_eq, readCmd_eq, writePending_siodata,
    writePending_pstate, writePending_cmd, h]
  rfl

/-- The wrapper does not look at the model's request list. -/
theorem irqWrapper_withInputs (s : State) (l : List Input) :
    irqWrapper { s with inputs := l } = { irqWrapper s with inputs := l } := by
  simp only [irqWrapper, readSiodata_eq, readPstate_eq, readCmd_eq, writePending_siodata,
    writePending_pstate, writePending_cmd]
  cases (stepFn s.pstate s.siodata s.cmd).2 with
  | none => rfl
  | some v => rfl

end

/-! ### The operations -/

/-- An interrupt operation that completes does what the wrapper does. -/
theorem eq_irqWrapper_of_exec {i : Instr} {p : PState} {s t : State} (hi : (encode i).1 = .irq p)
    (h : exec i s = .next t) : t = irqWrapper s := by
  cases i with
  | hs0Ack | hs1Ack | hs2Ack | hs3Ack =>
    simp only [exec_hs0Ack, exec_hs1Ack, exec_hs2Ack, exec_hs3Ack, interruptStep_next_iff,
      reply_of_writePstate] at h
    obtain ⟨hs, hfull, rfl⟩ := h
    exact (irqWrapper_of_reply hs (handshakeArm_of_fullMatch hfull)).symm
  | hs0Nak chk | hs1Nak chk | hs2Nak chk | hs3Nak chk =>
    simp only [exec_hs0Nak, exec_hs1Nak, exec_hs2Nak, exec_hs3Nak, interruptStep_next_iff,
      reply_of_held] at h
    obtain ⟨hs, honly, rfl⟩ := h
    rw [irqWrapper_of_reply hs (handshakeArm_of_keyOnlyMatch honly), hs.2.1]
  | hs0Rst chk keyf | hs1Rst chk keyf | hs2Rst chk keyf | hs3Rst chk keyf =>
    simp only [exec_hs0Rst, exec_hs1Rst, exec_hs2Rst, exec_hs3Rst, interruptStep_next_iff,
      protocolViolation_of_entered] at h
    obtain ⟨hs, hkey, rfl⟩ := h
    exact (irqWrapper_of_violation hs (handshakeArm_of_keyMismatch hkey)).symm
  | mg1Ok | mg2Ok | mg3Ok =>
    simp only [exec_mg1Ok, exec_mg2Ok, exec_mg3Ok, interruptStep_next_iff, reply_of_writePstate] at h
    obtain ⟨hs, -, rfl⟩ := h
    exact (irqWrapper_of_reply hs rfl).symm
  | sdPoll =>
    simp only [exec_sdPoll, interruptStep_next_iff, reply_of_held, readCmd_eq, writePending_cmd] at h
    obtain ⟨hs, -, rfl⟩ := h
    rw [irqWrapper_of_reply hs rfl, hs.2.1]
  | mg1Rst lit | mg2Rst lit | mg3Rst lit | sdRst lit =>
    simp only [exec_mg1Rst, exec_mg2Rst, exec_mg3Rst, exec_sdRst, interruptStep_next_iff,
      protocolViolation_of_entered] at h
    obtain ⟨hs, hword, rfl⟩ := h
    exact (irqWrapper_of_violation hs (if_neg (bne_iff_ne.mp hword))).symm
  | setStart | setStop | setHardStop | update | xfer w => cases hi

/-- The operation selected on a pending interrupt completes and does what the wrapper does. -/
theorem exec_decodeIrq_eq_irqWrapper {s : State} (h : s.irqPending = true) :
    exec (decodeIrq s.pstate s.siodata) s = .next (irqWrapper s) := by
  obtain ⟨t, ht⟩ := exec_decodeIrq_completes h
  rw [ht, eq_irqWrapper_of_exec (congrArg Prod.fst (encode_decodeIrq _ _)) ht]

/-- Settles O18: the step is the selected operation, and that completes as the wrapper does. -/
theorem interruptStepRefinesStepFunction : Obligations.InterruptStepRefinesStepFunction :=
  fun _ h => ⟨(step_pending h).trans (exec_decodeIrq_eq_irqWrapper h), exec_decodeIrq_eq_irqWrapper h⟩

end Sys2Proof.Machine
end

section
/-! The decode table (O13, O19). Within a state the table stands in priority order, so the selected row is
the first that takes the word; that row names the decoder's operation, and its columns are what `STEP`
answers. -/

namespace Sys2Proof.Machine

/-! ### The selected row is the first that takes the word -/

/-- The test of a row on a word (R77). -/
def rowTakes (w : Word) (r : DecodeRow) : Bool := rowSelects r.rowMatch r.rowMask w

/-- The rows of a state, in the table's order. -/
def rowsOf (p : PState) : List DecodeRow := decodeRows.filter (·.state == p)

/-- The first row of a state that takes the word; `selectedRow_eq_iff` ties it to `selectedBy`. -/
def selectedRow (p : PState) (w : Word) : Option DecodeRow := (rowsOf p).find? (rowTakes w)

theorem mem_rowsOf_iff {r : DecodeRow} {p : PState} : r ∈ rowsOf p ↔ r ∈ decodeRows ∧ r.state = p := by
  rw [rowsOf, List.mem_filter, beq_iff_eq]

theorem rowsOf_pairwise_prio (p : PState) : (rowsOf p).Pairwise fun a b => a.prio < b.prio := by
  cases p <;> decide

/-- The test of R77 and R87, in words: the row is of the state, takes the word, and no row of the state
that takes the word comes before it. -/
theorem selectedBy_iff {r : DecodeRow} {p : PState} {w : Word} :
    r.selectedBy p w = true ↔ r.state = p ∧ rowTakes w r = true ∧
      ∀ q ∈ rowsOf p, rowTakes w q = true → r.prio ≤ q.prio := by
  simp only [DecodeRow.selectedBy, rowTakes, mem_rowsOf_iff, Bool.and_eq_true, beq_iff_eq, and_assoc,
    List.all_eq_true, Bool.not_eq_true', Bool.and_eq_false_imp, decide_eq_false_iff_not, not_lt, and_imp]

/-- The row the table selects is the first of the state that takes the word. -/
theorem selectedRow_eq_iff {r : DecodeRow} {p : PState} {w : Word} :
    selectedRow p w = some r ↔ r ∈ decodeRows ∧ r.selectedBy p w = true := by
  have hsorted := rowsOf_pairwise_prio p
  rw [selectedRow, List.find?_eq_some_iff_append, selectedBy_iff]
  constructor
  · rintro ⟨htakes, before, after, hsplit, hbefore⟩
    have hr : r ∈ rowsOf p := by simp [hsplit]
    obtain ⟨hmem, hstate⟩ := mem_rowsOf_iff.mp hr
    rw [hsplit, List.pairwise_append, List.pairwise_cons] at hsorted
    obtain ⟨-, ⟨hlater, -⟩, -⟩ := hsorted
    refine ⟨hmem, hstate, htakes, fun q hq hqtakes => ?_⟩
    rw [hsplit, List.mem_append, List.mem_cons] at hq
    rcases hq with hq | rfl | hq
    · exact absurd hqtakes (by simpa using hbefore q hq)
    · exact le_refl _
    · exact (hlater q hq).le
  · rintro ⟨hmem, hstate, htakes, hleast⟩
    obtain ⟨before, after, hsplit⟩ := List.append_of_mem (mem_rowsOf_iff.mpr ⟨hmem, hstate⟩)
    refine ⟨htakes, before, after, hsplit, fun q hq => ?_⟩
    rw [hsplit, List.pairwise_append] at hsorted
    obtain ⟨-, -, hearlier⟩ := hsorted
    have hlt : q.prio < r.prio := hearlier q hq r List.mem_cons_self
    rw [Bool.not_eq_true', Bool.eq_false_iff]
    intro hqtakes
    have hle := hleast q (by simp [hsplit, hq]) hqtakes
    omega

section
variable {p : PState} {w : Word} {a b c : DecodeRow} {l : List DecodeRow}

theorem selectedRow_first (hrows : rowsOf p = a :: l) (ha : rowTakes w a = true) :
    selectedRow p w = some a := by
  simp [selectedRow, hrows, ha]

theorem selectedRow_second (hrows : rowsOf p = a :: b :: l) (ha : rowTakes w a = false)
    (hb : rowTakes w b = true) : selectedRow p w = some b := by
  simp [selectedRow, hrows, ha, hb]

theorem selectedRow_third (hrows : rowsOf p = a :: b :: c :: l) (ha : rowTakes w a = false)
    (hb : rowTakes w b = false) (hc : rowTakes w c = true) : selectedRow p w = some c := by
  simp [selectedRow, hrows, ha, hb, hc]

end

/-! ### What the selected row says -/

/-- `handshakeArm` in the order of the table's rows. -/
theorem handshakeArm_eq (k : Fin 4) (self next : PState) (ack w : Word) :
    handshakeArm k self next ack w =
      if w = fullWord k then (next, some ack)
      else if low16 w = key k then (self, some (nakReply (key k)))
      else (.hs0, none) := by
  simp only [eq_fullWord_iff]
  split_ifs with hfull hkey
  · exact handshakeArm_of_fullMatch (by simp [fullMatch, hfull])
  · have hchk : high16 w ≠ not16 (key k) := fun h => hfull ⟨hkey, h⟩
    exact handshakeArm_of_keyOnlyMatch (by simp [keyOnlyMatch, hkey, hchk])
  · exact handshakeArm_of_keyMismatch (bne_iff_ne.mpr hkey)

/-- In every state some row takes the word, and the first that does names the operation the decoder gives
and has the next state and the reply that `STEP` answers. -/
theorem exists_selectedRow (p : PState) (w : Word) :
    ∃ r, selectedRow p w = some r ∧ r.mnemonic = (decodeIrq p w).mnemonic ∧
      ∀ c, stepFn p w c = (r.next, replyWord r.reply c) := by
  cases p with
  | hs0 | hs1 | hs2 | hs3 =>
    simp only [decodeIrq_hs0, decodeIrq_hs1, decodeIrq_hs2, decodeIrq_hs3, stepFn, handshakeArm_eq]
    split_ifs with hfull hkey
    · subst hfull
      exact ⟨_, selectedRow_first rfl rfl, rfl, fun _ => rfl⟩
    · have hack := (rowSelects_all _ w).trans (beq_eq_false_iff_ne.mpr hfull)
      have hnak := (rowSelects_low _ w).trans (beq_iff_eq.mpr hkey)
      exact ⟨_, selectedRow_second rfl hack hnak, rfl, fun _ => rfl⟩
    · have hack := (rowSelects_all _ w).trans (beq_eq_false_iff_ne.mpr hfull)
      have hnak := (rowSelects_low _ w).trans (beq_eq_false_iff_ne.mpr hkey)
      exact ⟨_, selectedRow_third rfl hack hnak (rowSelects_none w), rfl, fun _ => rfl⟩
  | mg1 | mg2 | mg3 | sendData =>
    simp only [decodeIrq_mg1, decodeIrq_mg2, decodeIrq_mg3, decodeIrq_sendData, stepFn]
    split_ifs with hword
    · subst hword
      exact ⟨_, selectedRow_first rfl rfl, rfl, fun _ => rfl⟩
    · have hmatch := (rowSelects_all _ w).trans (beq_eq_false_iff_ne.mpr hword)
      exact ⟨_, selectedRow_second rfl hmatch (rowSelects_none w), rfl, fun _ => rfl⟩

/-- Settles O13: selected rows are values of the function `selectedRow`, so there is at most one. -/
theorem decoderSelectsTheOneRow : Obligations.DecoderSelectsTheOneRow := by
  intro p w
  obtain ⟨r, hr, hmnemonic, -⟩ := exists_selectedRow p w
  obtain ⟨hmem, hsel⟩ := selectedRow_eq_iff.mp hr
  refine ⟨r, hmem, hsel, hmnemonic, fun q hq hqsel => ?_⟩
  exact Option.some.inj ((selectedRow_eq_iff.mpr ⟨hq, hqsel⟩).symm.trans hr)

/-- The columns of the table (R79, R80, R165): a row with a reply arms and raises nothing; a row without
one does not arm, and raises the violation of its state. -/
theorem decodeRows_columns : ∀ r ∈ decodeRows,
    (r.reply ≠ .noReply → r.arm = true ∧ r.violation = none) ∧
    (r.reply = .noReply → r.next = .hs0 ∧ r.arm = false ∧ r.violation = some (violationClass r.state)) := by
  decide

/-- `STEP` answers with the next state and the reply of the selected row. -/
theorem stepFn_of_selectedBy {r : DecodeRow} {p : PState} {w : Word} (hr : r ∈ decodeRows)
    (hsel : r.selectedBy p w = true) (c : Word) : stepFn p w c = (r.next, replyWord r.reply c) := by
  obtain ⟨q, hq, -, hstep⟩ := exists_selectedRow p w
  obtain rfl := Option.some.inj (hq.symm.trans (selectedRow_eq_iff.mpr ⟨hr, hsel⟩))
  exact hstep c

/-- Settles O19: the wrapper, which the step is (O18), is read off the selected row. -/
theorem interruptStepFollowsItsTableRow : Obligations.InterruptStepFollowsItsTableRow := by
  intro s hpending r hr hsel
  have hwaiting : s.Waiting s.pstate s.siodata := ⟨hpending, rfl, rfl⟩
  have hstep := stepFn_of_selectedBy hr hsel s.cmd
  obtain ⟨hreplies, hviolates⟩ := decodeRows_columns r hr
  rw [(interruptStepRefinesStepFunction s hpending).1]
  cases hreply : r.reply with
  | lit _ | cmd =>
    simp only [hreply, replyWord] at hstep hreplies ⊢
    obtain ⟨harm, hnone⟩ := hreplies nofun
    rw [irqWrapper_of_reply hwaiting hstep, harm, hnone]
    simp [State.replied]
  | noReply =>
    obtain ⟨hnext, harm, hclass⟩ := hviolates hreply
    simp only [hreply, replyWord, hnext] at hstep ⊢
    rw [irqWrapper_of_violation hwaiting hstep, harm, hclass, (selectedBy_iff.mp hsel).1]
    simp [State.violated]

end Sys2Proof.Machine
end

section
/-! Legal words (O14): a word that does not violate in a state has the low half that state expects, and the
eight low halves differ. -/

namespace Sys2Proof.Machine

/-- The low half of every word that is legal in a state. -/
def legalLow : PState → Half
  | .hs0 => key 0
  | .hs1 => key 1
  | .hs2 => key 2
  | .hs3 => key 3
  | .mg1 => low16 (magic 0)
  | .mg2 => low16 (magic 1)
  | .mg3 => low16 (magic 2)
  | .sendData => low16 poll

theorem mem_allPStates (p : PState) : p ∈ allPStates := by
  cases p <;> decide

theorem legalLow_injective {p q : PState} (h : legalLow p = legalLow q) : p = q := by
  have hnodup : (allPStates.map legalLow).Nodup := by decide
  exact List.inj_on_of_nodup_map hnodup (mem_allPStates p) (mem_allPStates q) h

theorem low16_of_legal {p : PState} {w : Word} (h : (decodeIrq p w).isReset = false) :
    low16 w = legalLow p := by
  cases p with
  | hs0 | hs1 | hs2 | hs3 =>
    simp only [decodeIrq_hs0, decodeIrq_hs1, decodeIrq_hs2, decodeIrq_hs3] at h
    split_ifs at h with hfull hkey
    · exact ((eq_fullWord_iff _ w).mp hfull).1
    · exact hkey
    · cases h
  | mg1 | mg2 | mg3 | sendData =>
    simp only [decodeIrq_mg1, decodeIrq_mg2, decodeIrq_mg3, decodeIrq_sendData] at h
    split_ifs at h with hword
    · exact congrArg low16 hword
    · cases h

/-- A step on a word that violates in the present state leaves a violation. -/
theorem step_of_illegal {s : State} (hpending : s.irqPending = true)
    (h : (decodeIrq s.pstate s.siodata).isReset = true) : ∃ c, step s = .next (s.violated c) := by
  obtain ⟨t, ht⟩ := exec_decodeIrq_completes hpending
  obtain ⟨c, rfl⟩ := exec_reset_next h ht
  exact ⟨c, (step_pending hpending).trans ht⟩

/-- Settles O14: two states in which one word is legal have the same `legalLow`. -/
theorem legalWordBelongsToOneState : Obligations.LegalWordBelongsToOneState := by
  refine ⟨fun p q w hne hp => ?exclusive, fun s hpending h => ?consumed, fun p => ?stopWord⟩
  case exclusive =>
    by_contra hq
    have hq := low16_of_legal (Bool.eq_false_of_not_eq_true hq)
    exact hne (legalLow_injective ((low16_of_legal hp).symm.trans hq))
  case consumed =>
    obtain ⟨c, hstep⟩ := step_of_illegal hpending h
    exact ⟨s.violated c, hstep, rfl, rfl, rfl, rfl, rfl⟩
  case stopWord =>
    cases p <;> rfl

end Sys2Proof.Machine
end

section
/-! Traces as runs (O46): listing requests in advance changes nothing that an operation does, so each line
of a trace is one step of the machine that takes that line's request off the list. -/

namespace Sys2Proof.Machine

section
variable {s t : State} (l : List Input)

theorem exec_hostInstr_withInputs {op : HostOp} (h : exec (hostInstr op) s = .next t) :
    exec (hostInstr op) { s with inputs := l } = .next { t with inputs := l } := by
  obtain ⟨hidle, rfl⟩ := exec_hostInstr_iff.mp h
  exact exec_hostInstr_iff.mpr ⟨hidle, by cases op <;> rfl⟩

theorem exec_xfer_withInputs {w : Word} (h : exec (.xfer w) s = .next t) :
    exec (.xfer w) { s with inputs := l } = .next { t with inputs := l } := by
  obtain ⟨hidle, hstart, rfl⟩ := exec_xfer_iff.mp h
  exact exec_xfer_iff.mpr ⟨hidle, hstart, rfl⟩

end

/-- An interrupt operation completes only on a pending interrupt. -/
theorem irqPending_before_exec_irq {i : Instr} {p : PState} {s t : State} (hi : (encode i).1 = .irq p)
    (h : exec i s = .next t) : s.irqPending = true := by
  rcases exec_next_cases h with ⟨-, hp, -⟩ | ⟨-, hp, -⟩ | ⟨op, rfl, -⟩ | ⟨w, rfl, -⟩
  · exact hp
  · exact hp
  · simp at hi
  · cases hi

section
variable {s : State} {rest : List Input}

/-- A request for a `HOST` operation is served by that operation. -/
theorem step_hostRequest {op : HostOp} (hidle : s.irqPending = false)
    (hi : s.inputs = .host (hostWord op) :: rest) :
    step s = exec (hostInstr op) { s with inputs := rest } := by
  rw [step, fetch_request hidle hi]
  simp only [fetchInput, decode, decodeHost_hostWord]

/-- A request for a transfer is served by that transfer. -/
theorem step_linkRequest {w : Word} (hidle : s.irqPending = false) (hi : s.inputs = .link w :: rest) :
    step s = exec (.xfer w) { s with inputs := rest } := by
  rw [step, fetch_request hidle hi]
  rfl

end

/-- One line of a trace is one step of the machine, which takes the line's request off the list. -/
theorem step_of_traceStep {x : TraceStep} {s u : State} (l : List TraceStep)
    (h : traceStep x s = .next u) :
    step { s with inputs := traceInputs (x :: l) } = .next { u with inputs := traceInputs l } := by
  cases x with
  | host op =>
    have hidle := (exec_hostInstr_iff.mp h).1
    exact (step_hostRequest (s := { s with inputs := traceInputs (.host op :: l) }) hidle rfl).trans
      (exec_hostInstr_withInputs (s := s) (traceInputs l) h)
  | xfer w =>
    have hidle := (exec_xfer_iff.mp h).1
    exact (step_linkRequest (s := { s with inputs := traceInputs (.xfer w :: l) }) hidle rfl).trans
      (exec_xfer_withInputs (s := s) (traceInputs l) h)
  | irq =>
    have hslot := congrArg Prod.fst (encode_decodeIrq s.pstate s.siodata)
    have hpending := irqPending_before_exec_irq hslot h
    rw [eq_irqWrapper_of_exec hslot h, ← irqWrapper_withInputs]
    exact (interruptStepRefinesStepFunction { s with inputs := traceInputs l } hpending).1

theorem traceStep_keeps_inputs {x : TraceStep} {s u : State} (h : traceStep x s = .next u) :
    u.inputs = s.inputs := by
  cases x with
  | host op => exact (exec_keeps_requests (i := hostInstr op) h).1
  | xfer w => exact (exec_keeps_requests (i := .xfer w) h).1
  | irq => exact (exec_keeps_requests (i := decodeIrq s.pstate s.siodata) h).1

/-- Settles O46, by induction on the trace. -/
theorem traceRunIsMachineRun : Obligations.TraceRunIsMachineRun := by
  intro l
  induction l with
  | nil =>
    intro s t hempty h
    cases h
    rw [traceInputs, ← hempty]
    rfl
  | cons x l ih =>
    intro s t hempty h
    obtain ⟨u, hfirst, hrest⟩ := runTrace_cons_next_iff.mp h
    have hu : u.inputs = [] := (traceStep_keeps_inputs hfirst).trans hempty
    exact run_succ_next_iff.mpr ⟨_, step_of_traceStep l hfirst, ih u t hu hrest⟩

end Sys2Proof.Machine
end

section
/-! The handshake operations (O1, O2, O3, O22): an interrupt operation completes as `STEP` answers its
word. The `*_NAK` and `*_RST` operations of the four states are one family each, over the step `k`. -/

namespace Sys2Proof.Machine

/-! ### Interrupt operations and their words -/

section
variable {i : Instr} {p q : PState} {v w : Word} {s : State}

/-- In a state a word selects exactly the well-formed operation that is encoded as that word there. -/
theorem decodeIrq_eq_iff :
    decodeIrq p w = i ↔ i.wellFormed = true ∧ encode i = (.irq p, w) := by
  constructor
  · rintro rfl
    exact ⟨wellFormed_decodeIrq p w, encode_decodeIrq p w⟩
  · rintro ⟨hwf, hi⟩
    exact decodeIrq_of_encode hwf hi

/-- An operation without fields is selected in its state by its one word. -/
theorem decodeIrq_eq_iff_word (hi : encode i = (.irq p, v)) (hwf : i.wellFormed = true) :
    decodeIrq p w = i ↔ w = v := by
  rw [decodeIrq_eq_iff, hi, Prod.mk.injEq, and_iff_right hwf, and_iff_right rfl, eq_comm]

/-- A well-formed interrupt operation whose word waits does what the wrapper does. -/
theorem exec_eq_irqWrapper_of_waiting (hi : encode i = (.irq p, w)) (hwf : i.wellFormed = true)
    (hs : s.Waiting p w) : exec i s = .next (irqWrapper s) := by
  obtain ⟨t, ht⟩ := exec_of_waiting hi hwf hs
  rw [ht, eq_irqWrapper_of_exec (congrArg Prod.fst hi) ht]

/-- Where `STEP` replies to the operation's word, the operation leaves that reply. -/
theorem exec_eq_replied (hi : encode i = (.irq p, w)) (hwf : i.wellFormed = true) (hs : s.Waiting p w)
    (h : stepFn p w s.cmd = (q, some v)) : exec i s = .next (s.replied q v) := by
  rw [exec_eq_irqWrapper_of_waiting hi hwf hs, irqWrapper_of_reply hs h]

/-- Where `STEP` does not reply, the operation leaves the violation of the state. -/
theorem exec_eq_violated (hi : encode i = (.irq p, w)) (hwf : i.wellFormed = true) (hs : s.Waiting p w)
    (h : stepFn p w s.cmd = (.hs0, none)) : exec i s = .next (s.violated (violationClass p)) := by
  rw [exec_eq_irqWrapper_of_waiting hi hwf hs, irqWrapper_of_violation hs h]

end

/-- Two words written as halves are equal when the halves are. -/
theorem append_eq_append_iff {hi hi' lo lo' : Half} : hi ++ lo = hi' ++ lo' ↔ hi = hi' ∧ lo = lo' := by
  rw [word_eq_iff, high16_append, high16_append, low16_append, low16_append]

/-! ### The key with a wrong complement -/

/-- `HSk_NAK`. -/
def nakInstr : Fin 4 → Half → Instr
  | 0 => .hs0Nak
  | 1 => .hs1Nak
  | 2 => .hs2Nak
  | 3 => .hs3Nak

theorem encode_nakInstr (k : Fin 4) (chk : Half) :
    encode (nakInstr k chk) = (.irq (handshakeState k), chk ++ key k) := by
  rw [← joinHalves_eq_append]
  match k with
  | 0 | 1 | 2 | 3 => rfl

theorem wellFormed_nakInstr_iff {k : Fin 4} {chk : Half} :
    (nakInstr k chk).wellFormed = true ↔ chk ≠ not16 (key k) :=
  match k with
  | 0 | 1 | 2 | 3 => bne_iff_ne

/-- In `Handshake(k)` the key with any other high half is answered with the expected complement and the
same key, and the state is held. -/
theorem stepFn_key (k : Fin 4) {chk : Half} (h : chk ≠ not16 (key k)) (c : Word) :
    stepFn (handshakeState k) (chk ++ key k) c = (handshakeState k, some (nakReply (key k))) := by
  have honly : keyOnlyMatch k (chk ++ key k) = true := by
    rw [← joinHalves_eq_append, keyOnlyMatch_joinHalves_key]
    exact bne_iff_ne.mpr h
  match k with
  | 0 | 1 | 2 | 3 => exact handshakeArm_of_keyOnlyMatch honly

theorem exec_nakInstr (k : Fin 4) {chk : Half} {s : State} (hchk : chk ≠ not16 (key k))
    (hs : s.Waiting (handshakeState k) (chk ++ key k)) :
    exec (nakInstr k chk) s = .next (s.replied (handshakeState k) (nakReply (key k))) :=
  exec_eq_replied (encode_nakInstr k chk) (wellFormed_nakInstr_iff.mpr hchk) hs (stepFn_key k hchk s.cmd)

theorem decodeIrq_eq_nakInstr_iff (k : Fin 4) (chk keyf : Half) :
    decodeIrq (handshakeState k) (chk ++ keyf) = nakInstr k chk ↔ keyf = key k ∧ chk ≠ not16 (key k) := by
  rw [decodeIrq_eq_iff, wellFormed_nakInstr_iff, encode_nakInstr, Prod.mk.injEq, append_eq_append_iff,
    and_iff_right rfl, and_iff_right rfl, and_comm, eq_comm (a := key k)]

/-! ### The wrong key -/

/-- `HSk_RST`. -/
def rstInstr : Fin 4 → Half → Half → Instr
  | 0 => .hs0Rst
  | 1 => .hs1Rst
  | 2 => .hs2Rst
  | 3 => .hs3Rst

theorem encode_rstInstr (k : Fin 4) (chk keyf : Half) :
    encode (rstInstr k chk keyf) = (.irq (handshakeState k), chk ++ keyf) := by
  rw [← joinHalves_eq_append]
  match k with
  | 0 | 1 | 2 | 3 => rfl

theorem wellFormed_rstInstr_iff {k : Fin 4} {chk keyf : Half} :
    (rstInstr k chk keyf).wellFormed = true ↔ keyf ≠ key k :=
  match k with
  | 0 | 1 | 2 | 3 => bne_iff_ne

/-- In `Handshake(k)` a wrong key is not answered, whatever the high half, and resets the state. -/
theorem stepFn_wrongKey (k : Fin 4) (chk : Half) {keyf : Half} (h : keyf ≠ key k) (c : Word) :
    stepFn (handshakeState k) (chk ++ keyf) c = (.hs0, none) := by
  have hmismatch : keyMismatch k (chk ++ keyf) = true := by
    rw [← joinHalves_eq_append, keyMismatch_joinHalves]
    exact bne_iff_ne.mpr h
  match k with
  | 0 | 1 | 2 | 3 => exact handshakeArm_of_keyMismatch hmismatch

/-- The violation of a handshake state is `V_KEY` (R167). -/
theorem violationClass_handshakeState (k : Fin 4) : violationClass (handshakeState k) = .vKey :=
  match k with
  | 0 | 1 | 2 | 3 => rfl

theorem exec_rstInstr (k : Fin 4) {chk keyf : Half} {s : State} (hkey : keyf ≠ key k)
    (hs : s.Waiting (handshakeState k) (chk ++ keyf)) :
    exec (rstInstr k chk keyf) s = .next (s.violated .vKey) := by
  rw [← violationClass_handshakeState k]
  exact exec_eq_violated (encode_rstInstr k chk keyf) (wellFormed_rstInstr_iff.mpr hkey) hs
    (stepFn_wrongKey k chk hkey s.cmd)

theorem decodeIrq_eq_rstInstr_iff (k : Fin 4) (chk keyf : Half) :
    decodeIrq (handshakeState k) (chk ++ keyf) = rstInstr k chk keyf ↔ keyf ≠ key k := by
  rw [decodeIrq_eq_iff, wellFormed_rstInstr_iff, encode_rstInstr, and_iff_left rfl]

/-! ### The obligations -/

/-- Settles O1: each of the four words is its operation's encoding and a full match for `STEP`. -/
theorem handshakeAckRepliesAndAdvances : Obligations.HandshakeAckRepliesAndAdvances := by
  refine ⟨fun s => ⟨fun hs => ?_, fun hs => ?_, fun hs => ?_, fun hs => ?_⟩, fun w => ?selected,
    fun s p v hs hpending => ⟨hs hpending, startFlag_withStart s.siocnt⟩⟩
  · exact exec_eq_replied rfl rfl hs (handshakeArm_of_fullMatch rfl)
  · exact exec_eq_replied rfl rfl hs (handshakeArm_of_fullMatch rfl)
  · exact exec_eq_replied rfl rfl hs (handshakeArm_of_fullMatch rfl)
  · exact exec_eq_replied rfl rfl hs (handshakeArm_of_fullMatch rfl)
  case selected =>
    exact ⟨decodeIrq_eq_iff_word rfl rfl, decodeIrq_eq_iff_word rfl rfl, decodeIrq_eq_iff_word rfl rfl,
      decodeIrq_eq_iff_word rfl rfl⟩

/-- Settles O2, which is about `HSk_NAK` at each `k`. -/
theorem handshakeNakRepliesAndHolds : Obligations.HandshakeNakRepliesAndHolds :=
  ⟨fun _ _ => ⟨exec_nakInstr 0, exec_nakInstr 1, exec_nakInstr 2, exec_nakInstr 3⟩,
    fun chk keyf => ⟨decodeIrq_eq_nakInstr_iff 0 chk keyf, decodeIrq_eq_nakInstr_iff 1 chk keyf,
      decodeIrq_eq_nakInstr_iff 2 chk keyf, decodeIrq_eq_nakInstr_iff 3 chk keyf⟩⟩

/-- Settles O3, which is about `HSk_RST` at each `k`; a violation does not write `SIOCNT`. -/
theorem handshakeWrongKeyViolates : Obligations.HandshakeWrongKeyViolates :=
  ⟨fun _ _ _ => ⟨exec_rstInstr 0, exec_rstInstr 1, exec_rstInstr 2, exec_rstInstr 3⟩,
    fun chk keyf => ⟨decodeIrq_eq_rstInstr_iff 0 chk keyf, decodeIrq_eq_rstInstr_iff 1 chk keyf,
      decodeIrq_eq_rstInstr_iff 2 chk keyf, decodeIrq_eq_rstInstr_iff 3 chk keyf⟩,
    fun _ _ hs hpending => hs hpending⟩

/-- The step on the key with a wrong high half `chk`: what it leaves does not mention `chk`. -/
theorem step_key (k : Fin 4) {s : State} {chk : Half} (hpending : s.irqPending = true)
    (hstate : s.pstate = handshakeState k) (hchk : chk ≠ not16 (key k)) :
    step { s with siodata := chk ++ key k } = .next (s.replied s.pstate (nakReply (key k))) := by
  have hwaiting : State.Waiting { s with siodata := chk ++ key k } (handshakeState k) (chk ++ key k) :=
    ⟨hpending, hstate, rfl⟩
  rw [(interruptStepRefinesStepFunction { s with siodata := chk ++ key k } hpending).1,
    irqWrapper_of_reply hwaiting (stepFn_key k hchk s.cmd), hstate]
  rfl

/-- Settles O22. -/
theorem nakReplyIgnoresReceivedHighHalf : Obligations.NakReplyIgnoresReceivedHighHalf := by
  intro k s hi hi' hpending hstate hhi hhi'
  exact ⟨s.replied s.pstate (nakReply (key k)), step_key k hpending hstate hhi,
    step_key k hpending hstate hhi', rfl, rfl, startFlag_withStart s.siocnt⟩

end Sys2Proof.Machine
end

section
/-! How `PSTATE` moves (O24, O26, O27): each state expects one word, the only one it advances on, and a
step advances at most as far as `State.progress` counts. -/

namespace Sys2Proof.Machine

/-! ### The expected words -/

/-- The one word that a state advances on; in `SendData`, which has no successor, the poll word, the one
word that does not reset it. -/
def expectedWord : PState → Word
  | .hs0 => fullWord 0
  | .hs1 => fullWord 1
  | .hs2 => fullWord 2
  | .hs3 => fullWord 3
  | .mg1 => magic 0
  | .mg2 => magic 1
  | .mg3 => magic 2
  | .sendData => poll

/-- `STEP` holds a state, advances it on the expected word, or resets it on another. -/
theorem stepFn_pstate_cases (p : PState) (w c : Word) :
    (stepFn p w c).1 = p ∨
      (w = expectedWord p ∧ successor p = some (stepFn p w c).1) ∨
      (w ≠ expectedWord p ∧ (stepFn p w c).1 = .hs0) := by
  cases p with
  | hs0 | hs1 | hs2 | hs3 =>
    simp only [stepFn, handshakeArm_eq]
    split_ifs with hfull hkey
    · exact .inr (.inl ⟨hfull, rfl⟩)
    · exact .inl rfl
    · exact .inr (.inr ⟨hfull, rfl⟩)
  | mg1 | mg2 | mg3 =>
    simp only [stepFn]
    split_ifs with hword
    · exact .inr (.inl ⟨hword, rfl⟩)
    · exact .inr (.inr ⟨hword, rfl⟩)
  | sendData =>
    simp only [stepFn]
    split_ifs with hword
    · exact .inl rfl
    · exact .inr (.inr ⟨hword, rfl⟩)

theorem irqWrapper_pstate (s : State) :
    (irqWrapper s).pstate = (stepFn s.pstate s.siodata s.cmd).1 := by
  simp only [irqWrapper, readSiodata_eq, readPstate_eq, readCmd_eq, writePending_siodata,
    writePending_pstate, writePending_cmd]
  cases (stepFn s.pstate s.siodata s.cmd).2 with
  | none => rfl
  | some v => rfl

section
variable {s t : State}

/-- A step with no interrupt pending does not move `PSTATE` (R22). -/
theorem step_idle_pstate (hidle : s.irqPending = false) (h : step s = .next t) : t.pstate = s.pstate := by
  rcases step_next_kinds h with ⟨hpending, -⟩ | ⟨hpending, -⟩ | ⟨-, l, n, op, rfl⟩ | ⟨-, -, l, n, w, rfl⟩
  · simp [hidle] at hpending
  · simp [hidle] at hpending
  · exact hostEffect_pstate op _
  · rfl

/-- A step holds `PSTATE`, advances it on the expected word, or resets it on another. -/
theorem step_pstate_cases (h : step s = .next t) :
    t.pstate = s.pstate ∨
      (s.Waiting s.pstate (expectedWord s.pstate) ∧ successor s.pstate = some t.pstate) ∨
      (s.irqPending = true ∧ s.siodata ≠ expectedWord s.pstate ∧ t.pstate = .hs0) := by
  by_cases hpending : s.irqPending = true
  · rw [(interruptStepRefinesStepFunction s hpending).1] at h
    cases h
    rw [irqWrapper_pstate]
    rcases stepFn_pstate_cases s.pstate s.siodata s.cmd with hheld | ⟨hword, hnext⟩ | ⟨hword, hreset⟩
    · exact .inl hheld
    · exact .inr (.inl ⟨⟨hpending, rfl, hword⟩, hnext⟩)
    · exact .inr (.inr ⟨hpending, hword, hreset⟩)
  · exact .inl (step_idle_pstate (Bool.eq_false_of_not_eq_true hpending) h)

end

/-! ### The gates -/

/-- The handshake states follow one another, and the last is followed by `Magic(1)`. -/
theorem successor_of_isHandshake {p q : PState} (hp : isHandshake p) (h : successor p = some q) :
    isHandshake q ∨ (p = .hs3 ∧ q = .mg1) := by
  rcases hp with rfl | rfl | rfl | rfl
  · exact .inl (.inr (.inl (Option.some.inj h).symm))
  · exact .inl (.inr (.inr (.inl (Option.some.inj h).symm)))
  · exact .inl (.inr (.inr (.inr (Option.some.inj h).symm)))
  · exact .inr ⟨rfl, (Option.some.inj h).symm⟩

theorem eq_mg3_of_successor_sendData {p : PState} (h : successor p = some .sendData) : p = .mg3 := by
  cases p <;> cases h
  rfl

/-- Settles O24, gate by gate over the three ways `PSTATE` can move. -/
theorem protocolStateGates : Obligations.ProtocolStateGates := by
  intro s t h
  have hmove := step_pstate_cases h
  refine ⟨fun hin hout => ?leaveHandshake, fun hout hin => ?enterSendData, fun hin hout => ?leaveSendData⟩
  case leaveHandshake =>
    rcases hmove with hheld | ⟨hwaiting, hnext⟩ | ⟨-, -, hreset⟩
    · exact absurd (hheld ▸ hin) hout
    · obtain ⟨hstate, hmg1⟩ := (successor_of_isHandshake hin hnext).resolve_left hout
      rw [hstate] at hwaiting
      exact ⟨hwaiting, hmg1⟩
    · exact absurd (.inl hreset) hout
  case enterSendData =>
    rcases hmove with hheld | ⟨hwaiting, hnext⟩ | ⟨-, -, hreset⟩
    · exact absurd (hheld.symm.trans hin) hout
    · rw [hin] at hnext
      rwa [eq_mg3_of_successor_sendData hnext] at hwaiting
    · cases hreset.symm.trans hin
  case leaveSendData =>
    rcases hmove with hheld | ⟨-, hnext⟩ | ⟨hpending, hword, hreset⟩
    · exact absurd (hheld.trans hin) hout
    · rw [hin] at hnext
      cases hnext
    · rw [hin] at hword
      exact ⟨hpending, hword, hreset⟩

/-! ### How far a step gets -/

/-- The successor is one code on, with no wrap-around. -/
theorem pstateCode_toNat_of_successor {p q : PState} (h : successor p = some q) :
    (pstateCode q).toNat = (pstateCode p).toNat + 1 := by
  cases p <;> cases h <;> rfl

theorem State.progress_of_idle {s : State} (h : s.irqPending = false) :
    s.progress = 2 * (pstateCode s.pstate).toNat := by
  simp [State.progress, h]

theorem State.progress_of_pending {s : State} (h : s.irqPending = true) :
    s.progress = 2 * (pstateCode s.pstate).toNat + 1 := by
  simp [State.progress, h]

/-- No step gets further than one unit of progress: an interrupt step takes the interrupt and passes at
most one state, a transfer raises the interrupt and passes none. -/
theorem step_progress_le {s t : State} (h : step s = .next t) : t.progress ≤ s.progress + 1 := by
  rcases step_next_kinds h with ⟨hpending, p, v, rfl, hp, -⟩ | ⟨-, c, rfl⟩ | ⟨hidle, l, n, op, rfl⟩ |
    ⟨hidle, -, l, n, w, rfl⟩
  · have hcode : (pstateCode p).toNat ≤ (pstateCode s.pstate).toNat + 1 := by
      rcases hp with rfl | hnext
      · exact Nat.le_succ _
      · exact (pstateCode_toNat_of_successor hnext).le
    rw [State.progress_of_pending hpending, State.progress_of_idle (State.replied_irqPending s p v),
      State.replied_pstate]
    omega
  · rw [State.progress_of_idle (State.violated_irqPending s c), State.violated_pstate]
    exact Nat.zero_le _
  · simp [State.progress]
  · simp [State.progress, hidle]

theorem run_progress_le {n : Nat} {s t : State} (h : Host.Core.run Sys2Proof.core n s = .next t) :
    t.progress ≤ s.progress + n := by
  induction n generalizing s with
  | zero =>
    cases h
    exact le_refl _
  | succ n ih =>
    obtain ⟨u, hstep, hrun⟩ := run_succ_next_iff.mp h
    have hfirst := step_progress_le hstep
    have hrest := ih hrun
    omega

/-- Settles O26: an idle `Handshake(0)` has made no progress, and `SendData` is seven states on. -/
theorem sendDataIsFourteenStepsAway : Obligations.SendDataIsFourteenStepsAway := by
  intro n s t hstate hidle hrun hend
  have hstart : s.progress = 0 := by
    rw [State.progress_of_idle hidle, hstate]
    rfl
  have hfar : 14 ≤ t.progress := by
    rw [State.progress, hend]
    exact Nat.le_add_right 14 _
  have hle := run_progress_le hrun
  omega

end Sys2Proof.Machine
end

section
/-! The seven matching words (O27): an `RX` line is a transfer and the wrapper, so each line passes at most
one state, and passes it on the expected word alone. -/

namespace Sys2Proof.Machine

/-! ### One `RX` line -/

/-- An `RX` line runs where the link is armed and idle, as a transfer and the wrapper. -/
theorem runTrace_rx_iff {w : Word} {l : List TraceLine} {s t : State} :
    runTrace (expandTrace (.rx w :: l)) s = .next t ↔
      s.irqPending = false ∧ startFlag s.siocnt = true ∧
        runTrace (expandTrace l) (irqWrapper (completeTransfer w s)) = .next t := by
  have hirq := exec_decodeIrq_eq_irqWrapper (completeTransfer_irqPending w s)
  constructor
  · intro h
    obtain ⟨u, hxfer, h⟩ := runTrace_cons_next_iff.mp h
    obtain ⟨hidle, hstart, rfl⟩ := exec_xfer_iff.mp hxfer
    obtain ⟨u, hu, hrest⟩ := runTrace_cons_next_iff.mp h
    obtain rfl : irqWrapper (completeTransfer w s) = u := Host.Outcome.next.inj (hirq.symm.trans hu)
    exact ⟨hidle, hstart, hrest⟩
  · rintro ⟨hidle, hstart, hrest⟩
    exact runTrace_cons_next_iff.mpr ⟨_, exec_xfer_iff.mpr ⟨hidle, hstart, rfl⟩,
      runTrace_cons_next_iff.mpr ⟨_, hirq, hrest⟩⟩

/-- In the protocol state `p`, idle, with the link armed: where an `RX` line runs. -/
def State.ArmedIn (s : State) (p : PState) : Prop :=
  s.pstate = p ∧ s.irqPending = false ∧ startFlag s.siocnt = true

/-- What an answered `RX` line leaves of an armed state: the old content of `SIODATA` sent, the reply in its
place, the protocol state `p`. -/
def State.exchanged (s : State) (p : PState) (v : Word) : State :=
  { s with pstate := p, siodata := v, txLog := s.txLog ++ [s.siodata] }

section
variable {p q : PState} {v w : Word} {s t : State}

theorem State.ArmedIn.exchanged (hs : s.ArmedIn p) (q : PState) (v : Word) : (s.exchanged q v).ArmedIn q :=
  ⟨rfl, hs.2⟩

/-- An answered transfer leaves the exchanged state: the transfer clears `START` and the reply sets it
again. -/
theorem irqWrapper_completeTransfer_of_reply (hs : s.ArmedIn p) (hreply : stepFn p w s.cmd = (q, some v)) :
    irqWrapper (completeTransfer w s) = s.exchanged q v := by
  obtain ⟨hstate, hidle, hstart⟩ := hs
  have hsiocnt : s.siocnt &&& 0xFF7F#16 ||| 0x0080#16 = s.siocnt :=
    (withStart_eq_of_modeBits (modeBits_withoutStart s.siocnt)).trans (withStart_of_startFlag hstart)
  rw [irqWrapper_of_reply (s := completeTransfer w s) ⟨rfl, hstate, rfl⟩ hreply]
  simp [State.replied, State.exchanged, completeTransfer_eq, hsiocnt, hidle]

/-- An `RX` line that `STEP` replies to leads on from the exchanged state. -/
theorem runTrace_rx_of_reply {l : List TraceLine} (hs : s.ArmedIn p)
    (hreply : stepFn p w s.cmd = (q, some v))
    (hrest : runTrace (expandTrace l) (s.exchanged q v) = .next t) :
    runTrace (expandTrace (.rx w :: l)) s = .next t := by
  rw [← irqWrapper_completeTransfer_of_reply hs hreply] at hrest
  obtain ⟨-, hidle, hstart⟩ := hs
  exact runTrace_rx_iff.mpr ⟨hidle, hstart, hrest⟩

end

/-! ### The seven words -/

/-- The words that lead from `Handshake(0)` to `SendData`. -/
def matchingWords : List Word :=
  [.hs0, .hs1, .hs2, .hs3, .mg1, .mg2, .mg3].map expectedWord

/-- The words that lead on from a state are its expected word and those that lead on from its successor. -/
theorem matchingWords_drop {p q : PState} (h : successor p = some q) :
    matchingWords.drop (pstateCode p).toNat =
      expectedWord p :: matchingWords.drop (pstateCode q).toNat := by
  cases p <;> cases h <;> rfl

/-- A trace of `RX` lines that ends in `SendData`, with no more lines than there are states to pass, has
received the matching words of those states: a line that does not advance leaves too few lines. -/
theorem eq_matchingWords_of_runTrace {ws : List Word} {s t : State}
    (hrun : runTrace (expandTrace (ws.map .rx)) s = .next t) (hend : t.pstate = .sendData)
    (hlength : (pstateCode s.pstate).toNat + ws.length ≤ 7) :
    ws = matchingWords.drop (pstateCode s.pstate).toNat := by
  induction ws generalizing s with
  | nil =>
    cases hrun
    rw [hend]
    rfl
  | cons w ws ih =>
    obtain ⟨-, -, hrest⟩ := runTrace_rx_iff.mp hrun
    have ih := ih hrest
    have hlen : matchingWords.length = 7 := rfl
    rw [irqWrapper_pstate, completeTransfer_pstate, completeTransfer_siodata, completeTransfer_cmd] at ih
    rw [List.length_cons] at hlength
    have hadvances : (pstateCode s.pstate).toNat < (pstateCode (stepFn s.pstate w s.cmd).1).toNat := by
      by_contra hle
      have hws := congrArg List.length (ih (by omega))
      rw [List.length_drop] at hws
      omega
    rcases stepFn_pstate_cases s.pstate w s.cmd with hheld | ⟨hword, hnext⟩ | ⟨-, hreset⟩
    · rw [hheld] at hadvances
      exact absurd hadvances (lt_irrefl _)
    · have hcode := pstateCode_toNat_of_successor hnext
      rw [matchingWords_drop hnext, ← hword, ← ih (by omega)]
    · rw [hreset] at hadvances
      exact absurd hadvances (Nat.not_lt_zero _)

/-- Settles O27: seven answered lines one after another, and the seven states to pass for seven lines. -/
theorem matchingWordsReachSendData : Obligations.MatchingWordsReachSendData := by
  intro s hstate hidle hstart
  refine ⟨?reaches, fun a b c d e f g t hrun hend => ?only⟩
  case reaches =>
    have hs0 : s.ArmedIn .hs0 := ⟨hstate, hidle, hstart⟩
    have hs1 := hs0.exchanged .hs1 0x544EB6B1#32
    have hs2 := hs1.exchanged .hs2 0x4E45ABB1#32
    have hs3 := hs2.exchanged .hs3 0x4F44B1BA#32
    have mg1 := hs3.exchanged .mg1 0x8000B0BB#32
    have mg2 := mg1.exchanged .mg2 0x10000010#32
    have mg3 := mg2.exchanged .mg3 0x20000013#32
    apply runTrace_rx_of_reply hs0 (handshakeArm_of_fullMatch rfl)
    apply runTrace_rx_of_reply hs1 (handshakeArm_of_fullMatch rfl)
    apply runTrace_rx_of_reply hs2 (handshakeArm_of_fullMatch rfl)
    apply runTrace_rx_of_reply hs3 (handshakeArm_of_fullMatch rfl)
    apply runTrace_rx_of_reply mg1 (if_pos rfl)
    apply runTrace_rx_of_reply mg2 (if_pos rfl)
    apply runTrace_rx_of_reply mg3 (if_pos rfl)
    simp only [State.exchanged, List.append_assoc]
    rfl
  case only =>
    have hwords := eq_matchingWords_of_runTrace (ws := [a, b, c, d, e, f, g]) hrun hend (by rw [hstate]; rfl)
    rw [hstate] at hwords
    cases hwords
    exact ⟨rfl, rfl, rfl, rfl, rfl, rfl, rfl⟩

end Sys2Proof.Machine
end

section
/-! The magic exchange (O4, O5): each magic state has one row for its expected word and one for every other
word, and `STEP` tests the same equality. -/

namespace Sys2Proof.Machine

/-- An operation encoded as a word is selected by that word exactly when its row's condition holds. -/
theorem decodeIrq_eq_iff_wellFormed {i : Instr} {p : PState} {w : Word} (hi : encode i = (.irq p, w)) :
    decodeIrq p w = i ↔ i.wellFormed = true := by
  rw [decodeIrq_eq_iff, and_iff_left hi]

/-- Settles O4: `STEP` replies to the expected word with a constant, whatever its argument `CMD`. -/
theorem magicMatchRepliesAndAdvances : Obligations.MagicMatchRepliesAndAdvances := by
  refine ⟨fun s => ⟨fun hs => ?_, fun hs => ?_, fun hs => ?_⟩, fun w => ?selected⟩
  · exact exec_eq_replied rfl rfl hs rfl
  · exact exec_eq_replied rfl rfl hs rfl
  · exact exec_eq_replied rfl rfl hs rfl
  case selected =>
    exact ⟨decodeIrq_eq_iff_word rfl rfl, decodeIrq_eq_iff_word rfl rfl, decodeIrq_eq_iff_word rfl rfl⟩

/-- Settles O5: on any other word the row's condition holds and `STEP` does not reply; a violation does not
write `SIOCNT`. -/
theorem magicMismatchViolates : Obligations.MagicMismatchViolates := by
  refine ⟨fun s w => ⟨fun hw hs => ?_, fun hw hs => ?_, fun hw hs => ?_⟩, fun w => ?selected,
    fun s c hs hpending => hs hpending⟩
  · exact exec_eq_violated (i := .mg1Rst w) rfl (bne_iff_ne.mpr hw) hs (if_neg hw)
  · exact exec_eq_violated (i := .mg2Rst w) rfl (bne_iff_ne.mpr hw) hs (if_neg hw)
  · exact exec_eq_violated (i := .mg3Rst w) rfl (bne_iff_ne.mpr hw) hs (if_neg hw)
  case selected =>
    exact ⟨(decodeIrq_eq_iff_wellFormed rfl).trans bne_iff_ne,
      (decodeIrq_eq_iff_wellFormed rfl).trans bne_iff_ne,
      (decodeIrq_eq_iff_wellFormed rfl).trans bne_iff_ne⟩

end Sys2Proof.Machine
end

section
/-! The word Start (O49, O31): it is sent only where a violation was logged on it, because each result of a
completed operation but `SET_START` keeps `State.StartAccounted`; a trace is made of such operations. -/

namespace Sys2Proof.Machine

/-! ### Words other than Start -/

theorem commandWord_ne_start {c : Command} (h : c ≠ .start) : commandWord c ≠ 0x40000026#32 := by
  cases c with
  | stop | hardStop => decide
  | start => exact absurd rfl h

/-- Start is none of the constant replies (R79). -/
theorem ne_start_of_mem_constantReplies {v : Word} (h : v ∈ constantReplies) : v ≠ 0x40000026#32 := by
  rintro rfl
  revert h
  decide

/-! ### The results of the operations -/

section
variable {s : State}

/-- A reply other than Start waits to be sent; it adds nothing to what was sent. -/
theorem State.StartAccounted.replied (hs : s.StartAccounted) (p : PState) {v : Word}
    (hv : v ≠ 0x40000026#32) : (s.replied p v).StartAccounted := by
  obtain ⟨hcmd, hsent, -⟩ := hs
  exact ⟨hcmd, hsent, fun _ hstart => absurd hstart hv⟩

/-- A violation leaves the received word in `SIODATA`, and logs it. -/
theorem State.StartAccounted.violated (hs : s.StartAccounted) (c : ViolationClass) :
    (s.violated c).StartAccounted := by
  obtain ⟨hcmd, hsent, -⟩ := hs
  refine ⟨hcmd, fun hstart => ?_, fun _ hstart => ⟨⟨c, s.siodata⟩, by simp, hstart⟩⟩
  obtain ⟨v, hv, hword⟩ := hsent hstart
  exact ⟨v, by simp [hv], hword⟩

/-- Of the four `HOST` operations only `SET_START` writes Start. -/
theorem hostEffect_cmd_ne_start {op : HostOp} (hop : op ≠ .setStart) (hs : s.cmd ≠ 0x40000026#32) :
    (hostEffect op s).cmd ≠ 0x40000026#32 := by
  cases op with
  | setStart => exact absurd rfl hop
  | setStop => exact commandWord_ne_start (c := .stop) nofun
  | setHardStop => exact commandWord_ne_start (c := .hardStop) nofun
  | update => exact hs

theorem State.StartAccounted.hostEffect (hs : s.StartAccounted) {op : HostOp} (hop : op ≠ .setStart) :
    (hostEffect op s).StartAccounted := by
  obtain ⟨hcmd, hsent, hwaits⟩ := hs
  exact ⟨hostEffect_cmd_ne_start hop hcmd, by simpa using hsent, by simpa using hwaits⟩

/-- A transfer sends the word that was waiting to be sent; the word it receives waits to be decoded. -/
theorem State.StartAccounted.completeTransfer (hs : s.StartAccounted) (hidle : s.irqPending = false)
    (w : Word) : (completeTransfer w s).StartAccounted := by
  obtain ⟨hcmd, hsent, hwaits⟩ := hs
  refine ⟨hcmd, fun hstart => ?_, fun htaken => by simp at htaken⟩
  rw [completeTransfer_txLog, List.mem_append, List.mem_singleton] at hstart
  rcases hstart with hbefore | hnow
  · exact hsent hbefore
  · exact hwaits hidle hnow.symm

end

theorem armed_startAccounted {p : ResetParams} (hcmd : p.cmdReset ≠ .start)
    (hdata : p.siodataReset ≠ 0x40000026#32) : (State.armed p).StartAccounted :=
  ⟨commandWord_ne_start hcmd, fun hsent => absurd hsent List.not_mem_nil,
    fun _ hwaits => absurd hwaits hdata⟩

/-- Settles O49, result by result: a reply is a constant or the content of `CMD`, and neither is Start. -/
theorem everyOtherOperationKeepsStartAccounted : Obligations.EveryOtherOperationKeepsStartAccounted := by
  refine ⟨fun p hcmd hdata => armed_startAccounted hcmd hdata, fun i s t hi hs h => ?_⟩
  rcases exec_next_cases h with ⟨-, -, p, v, rfl, -, hv⟩ | ⟨-, -, c, rfl⟩ | ⟨op, rfl, -, rfl⟩ |
    ⟨w, -, hidle, -, rfl⟩
  · apply hs.replied p
    rcases hv with hconstant | ⟨-, rfl⟩
    · exact ne_start_of_mem_constantReplies hconstant
    · exact hs.1
  · exact hs.violated c
  · exact hs.hostEffect fun hop => hi (congrArg hostInstr hop)
  · exact hs.completeTransfer hidle w

/-! ### Along a trace -/

theorem eq_setStart_of_hostInstr {op : HostOp} (h : hostInstr op = .setStart) : op = .setStart := by
  cases op <;> cases h
  rfl

/-- A line of a trace that does not request `SET_START` performs another operation: an interrupt step
selects none of `HOST`'s. -/
theorem exec_of_traceStep {x : TraceStep} {s t : State} (hx : x ≠ .host .setStart)
    (h : traceStep x s = .next t) : ∃ i, i ≠ .setStart ∧ exec i s = .next t := by
  cases x with
  | host op => exact ⟨hostInstr op, fun hi => hx (congrArg _ (eq_setStart_of_hostInstr hi)), h⟩
  | xfer w => exact ⟨.xfer w, nofun, h⟩
  | irq =>
    refine ⟨decodeIrq s.pstate s.siodata, fun hi => ?_, h⟩
    have hslot := encode_decodeIrq s.pstate s.siodata
    rw [hi] at hslot
    cases hslot

theorem runTrace_keeps_startAccounted {l : List TraceStep} {s t : State} (hl : .host .setStart ∉ l)
    (hs : s.StartAccounted) (h : runTrace l s = .next t) : t.StartAccounted := by
  induction l generalizing s with
  | nil =>
    cases h
    exact hs
  | cons x l ih =>
    obtain ⟨u, hfirst, hrest⟩ := runTrace_cons_next_iff.mp h
    obtain ⟨hx, hl⟩ := List.ne_and_not_mem_of_not_mem_cons hl
    obtain ⟨i, hi, hexec⟩ := exec_of_traceStep (Ne.symm hx) hfirst
    exact ih hl (everyOtherOperationKeepsStartAccounted.2 i s u hi hs hexec) hrest

/-- Settles O31: the account of Start holds at arming and at the end of the trace. -/
theorem startIsNeverSentUnasked : Obligations.StartIsNeverSentUnasked := by
  intro p l t hcmd hdata hl h hsent
  obtain ⟨-, haccount, -⟩ := runTrace_keeps_startAccounted hl (armed_startAccounted hcmd hdata) h
  exact haccount hsent

end Sys2Proof.Machine
end

section
/-! The steady state (O29, O6): a poll is answered with the content of `CMD` and leaves the link armed in
`SendData`, so setters and polls follow one another in any order. -/

namespace Sys2Proof.Machine

theorem runTrace_cons_of_next {x : TraceStep} {s u : State} (h : traceStep x s = .next u)
    (l : List TraceStep) : runTrace (x :: l) s = runTrace l u := by
  simp only [runTrace, h]

/-- A setter leaves its word in `CMD` (R84). -/
theorem hostEffect_cmd_of_setter {op : HostOp} (h : op ≠ .update) (s : State) :
    (hostEffect op s).cmd = hostWord op := by
  cases op with
  | setStart | setStop | setHardStop => rfl
  | update => exact absurd rfl h

section
variable {p : PState} {s : State}

/-- A `HOST` operation keeps the link armed and idle, in the same protocol state. -/
theorem State.ArmedIn.hostEffect (hs : s.ArmedIn p) (op : HostOp) : (hostEffect op s).ArmedIn p := by
  obtain ⟨hstate, hidle, hstart⟩ := hs
  exact ⟨by simp [hstate], by simp [hidle], hostEffect_keeps_start hstart⟩

theorem runTrace_host_of_armedIn (hs : s.ArmedIn p) (op : HostOp) (l : List TraceStep) :
    runTrace (.host op :: l) s = runTrace l (hostEffect op s) := by
  obtain ⟨-, hidle, -⟩ := hs
  have hhost : traceStep (.host op) s = .next (hostEffect op s) := exec_hostInstr_iff.mpr ⟨hidle, rfl⟩
  exact runTrace_cons_of_next hhost l

/-- A poll in `SendData` exchanges the content of `SIODATA` for that of `CMD` (R131). -/
theorem runTrace_poll (hs : s.ArmedIn .sendData) (l : List TraceStep) :
    runTrace (.xfer poll :: .irq :: l) s = runTrace l (s.exchanged .sendData s.cmd) := by
  have hirq : traceStep .irq (completeTransfer poll s) = .next (s.exchanged .sendData s.cmd) := by
    rw [← irqWrapper_completeTransfer_of_reply (w := poll) hs rfl]
    exact exec_decodeIrq_eq_irqWrapper (completeTransfer_irqPending poll s)
  obtain ⟨-, hidle, hstart⟩ := hs
  have hxfer : traceStep (.xfer poll) s = .next (completeTransfer poll s) :=
    exec_xfer_iff.mpr ⟨hidle, hstart, rfl⟩
  rw [runTrace_cons_of_next hxfer, runTrace_cons_of_next hirq]

end

/-- Settles O29: each trace runs line by line from one armed `SendData` state to the next, and a poll
serves what `CMD` holds there. -/
theorem pollServesTheLatestCommand : Obligations.PollServesTheLatestCommand := by
  intro s a b hstate hidle hstart ha hb
  have hs : s.ArmedIn .sendData := ⟨hstate, hidle, hstart⟩
  have hpolled : (s.exchanged .sendData s.cmd).ArmedIn .sendData := hs.exchanged .sendData s.cmd
  refine ⟨?latestServed, ?setterAfter, ?twice⟩
  case latestServed =>
    have hset := (hs.hostEffect a).hostEffect b
    have hcmd : (hostEffect b (hostEffect a s)).cmd = hostWord b := hostEffect_cmd_of_setter hb _
    refine ⟨(hostEffect b (hostEffect a s)).exchanged .sendData _, ?_, hcmd, hcmd⟩
    exact (runTrace_host_of_armedIn hs a _).trans <|
      (runTrace_host_of_armedIn (hs.hostEffect a) b _).trans (runTrace_poll hset [])
  case setterAfter =>
    refine ⟨hostEffect a (s.exchanged .sendData s.cmd), ?_, hostEffect_siodata a _,
      hostEffect_cmd_of_setter ha _⟩
    exact (runTrace_poll hs _).trans (runTrace_host_of_armedIn hpolled a [])
  case twice =>
    refine ⟨(s.exchanged .sendData s.cmd).exchanged .sendData s.cmd, ?_, rfl,
      List.append_assoc s.txLog [s.siodata] [s.cmd]⟩
    exact (runTrace_poll hs _).trans (runTrace_poll hpolled [])

/-- Settles O6: `STEP` replies to the poll word with its argument `CMD` and to no other word; a violation
does not write `SIOCNT`. -/
theorem steadyStateServesOrViolates : Obligations.SteadyStateServesOrViolates := by
  refine ⟨fun s w => ⟨fun hs => ?serves, fun hw hs => ?violates⟩, fun w => ⟨?poll, ?other⟩,
    fun s c hs hpending => hs hpending⟩
  case serves => exact exec_eq_replied rfl rfl hs rfl
  case violates => exact exec_eq_violated (i := .sdRst w) rfl (bne_iff_ne.mpr hw) hs (if_neg hw)
  case poll => exact decodeIrq_eq_iff_word rfl rfl
  case other => exact (decodeIrq_eq_iff_wellFormed rfl).trans bne_iff_ne

end Sys2Proof.Machine
end

section
/-! The operations of the main loop (O34, O35, O7, O8): a setter writes its word to `CMD`, `UPDATE` sets
`START`, and with no interrupt pending each completes with that one write, so what holds of a pair of
operations is what holds of the two writes. -/

namespace Sys2Proof.Machine

/-! ### The two writes -/

/-- The three setters are one write each, of the word that encodes them (R84, R137). -/
theorem hostEffect_of_setter {op : HostOp} (h : op ≠ .update) (s : State) :
    hostEffect op s = { s with cmd := hostWord op } := by
  cases op with
  | setStart | setStop | setHardStop => rfl
  | update => exact absurd rfl h

theorem hostEffect_setter_of_cmd {op : HostOp} (h : op ≠ .update) {s : State} (hcmd : s.cmd = hostWord op) :
    hostEffect op s = s := by
  rw [hostEffect_of_setter h, ← hcmd]

theorem hostEffect_update_of_start {s : State} (h : startFlag s.siocnt = true) :
    hostEffect .update s = s := by
  rw [hostEffect, withStart_of_startFlag h]

theorem hostEffect_idempotent (op : HostOp) (s : State) :
    hostEffect op (hostEffect op s) = hostEffect op s := by
  by_cases h : op = .update
  · subst h
    exact hostEffect_update_of_start (startFlag_withStart s.siocnt)
  · exact hostEffect_setter_of_cmd h (hostEffect_cmd_of_setter h s)

/-- A setter and `UPDATE` write different registers. -/
theorem hostEffect_update_comm (op : HostOp) (s : State) :
    hostEffect .update (hostEffect op s) = hostEffect op (hostEffect .update s) := by
  by_cases h : op = .update
  · rw [h]
  · rw [hostEffect_of_setter h, hostEffect_of_setter h]
    rfl

/-- Two setters write the same register. -/
theorem hostEffect_overwrite {a b : HostOp} (ha : a ≠ .update) (hb : b ≠ .update) (s : State) :
    hostEffect b (hostEffect a s) = hostEffect b s := by
  rw [hostEffect_of_setter hb, hostEffect_of_setter ha, hostEffect_of_setter hb]

/-- The four words of R84 differ. -/
theorem hostWord_injective : Function.Injective hostWord := by
  intro a b
  cases a <;> cases b <;> decide

/-- Neither write depends on `PSTATE` or `SIODATA`. -/
theorem hostEffect_withProtocolState (op : HostOp) (s : State) (p : PState) (w : Word) :
    hostEffect op { s with pstate := p, siodata := w } =
      { hostEffect op s with pstate := p, siodata := w } := by
  by_cases h : op = .update
  · rw [h, hostEffect, hostEffect]
  · rw [hostEffect_of_setter h, hostEffect_of_setter h]

/-! ### One operation and two -/

section
variable {s : State} (hidle : s.irqPending = false)
include hidle

theorem exec_hostInstr_of_idle (op : HostOp) : exec (hostInstr op) s = .next (hostEffect op s) :=
  exec_hostInstr_iff.mpr ⟨hidle, rfl⟩

theorem runTrace_host_of_idle (op : HostOp) (l : List TraceStep) :
    runTrace (.host op :: l) s = runTrace l (hostEffect op s) :=
  runTrace_cons_of_next (x := .host op) (exec_hostInstr_of_idle hidle op) l

theorem runTrace_host_pair_of_idle (a b : HostOp) :
    runTrace [.host a, .host b] s = .next (hostEffect b (hostEffect a s)) := by
  have hidle' : (hostEffect a s).irqPending = false := by rw [hostEffect_irqPending, hidle]
  rw [runTrace_host_of_idle hidle, runTrace_host_of_idle hidle', runTrace]

/-- After two setters `CMD` holds the word of the later one, so the order shows. -/
theorem runTrace_setters_order {a b : HostOp} (ha : a ≠ .update) (hb : b ≠ .update) (hne : a ≠ b) :
    runTrace [.host a, .host b] s ≠ runTrace [.host b, .host a] s := by
  rw [runTrace_host_pair_of_idle hidle, runTrace_host_pair_of_idle hidle]
  intro h
  have hcmd := congrArg State.cmd (Host.Outcome.next.inj h)
  rw [hostEffect_cmd_of_setter hb, hostEffect_cmd_of_setter ha] at hcmd
  exact hne (hostWord_injective hcmd).symm

end

/-! ### The obligations -/

/-- Settles O34: whether a `HOST` operation completes depends on `IRQ_PENDING` alone. -/
theorem hostOperationsIgnoreProtocolState : Obligations.HostOperationsIgnoreProtocolState := by
  intro op s t p w h
  obtain ⟨hidle, rfl⟩ := exec_hostInstr_iff.mp h
  exact exec_hostInstr_iff.mpr ⟨hidle, (hostEffect_withProtocolState op s p w).symm⟩

/-- Settles O35: each clause is an equation, or for the last order an inequality, between writes. -/
theorem hostOperationsAreIdempotentAndIndependent :
    Obligations.HostOperationsAreIdempotentAndIndependent := by
  intro s a b hidle
  refine ⟨⟨hostEffect a s, exec_hostInstr_of_idle hidle a, ?again, hostEffect_pstate a s⟩, ?commute,
    fun ha hb => ⟨?later, runTrace_setters_order hidle ha hb⟩, fun hstart => ?armed⟩
  case again =>
    exact exec_hostInstr_iff.mpr ⟨by rw [hostEffect_irqPending, hidle], (hostEffect_idempotent a s).symm⟩
  case commute =>
    rw [runTrace_host_pair_of_idle hidle, runTrace_host_pair_of_idle hidle, hostEffect_update_comm]
  case later =>
    rw [runTrace_host_pair_of_idle hidle, hostEffect_overwrite ha hb, runTrace_host_of_idle hidle, runTrace]
  case armed =>
    exact exec_hostInstr_iff (op := .update).mpr ⟨hidle, (hostEffect_update_of_start hstart).symm⟩

/-- Settles O7, for each setter from the same two facts: it completes with its write, and writing what `CMD`
holds changes nothing. -/
theorem settersOverwriteCommand : Obligations.SettersOverwriteCommand := by
  intro s hidle
  have hcompletes : ∀ op, exec (hostInstr op) s = .next (hostEffect op s) := exec_hostInstr_of_idle hidle
  have hunchanged : ∀ op, op ≠ .update → s.cmd = hostWord op → exec (hostInstr op) s = .next s :=
    fun op hop hcmd => (hcompletes op).trans (congrArg _ (hostEffect_setter_of_cmd hop hcmd))
  exact ⟨hcompletes .setStart, hcompletes .setStop, hcompletes .setHardStop,
    hunchanged .setStart nofun, hunchanged .setStop nofun, hunchanged .setHardStop nofun⟩

/-- Settles O8: `UPDATE` is the write that sets `START`. -/
theorem updateSetsOnlyStart : Obligations.UpdateSetsOnlyStart := by
  intro s hidle
  have hcompletes : exec .update s = .next (hostEffect .update s) := exec_hostInstr_of_idle hidle .update
  exact ⟨hcompletes, startFlag_withStart s.siocnt, fun _ hn => getLsbD_withStart s.siocnt hn,
    fun hstart => hcompletes.trans (congrArg _ (hostEffect_update_of_start hstart))⟩

end Sys2Proof.Machine
end

section
/-! The link's transfer (O9, O17): the one armed case in which it completes and the two names it is refused
by. -/

namespace Sys2Proof.Machine

section
variable {s : State} (w : Word)

/-- A transfer under a pending interrupt would be an overrun (R174). -/
theorem exec_xfer_of_pending (hpending : s.irqPending = true) : exec (.xfer w) s = .refused .overrun := by
  rw [exec_xfer, linkStep, if_pos hpending]

/-- Without `START` a transfer is not enabled (R145, R148). -/
theorem exec_xfer_of_unarmed (hidle : s.irqPending = false) (hstart : startFlag s.siocnt = false) :
    exec (.xfer w) s = .refused .linkNotArmed := by
  simp [exec_xfer, linkStep, hidle, hstart]

theorem exec_xfer_of_armed (hidle : s.irqPending = false) (hstart : startFlag s.siocnt = true) :
    exec (.xfer w) s = .next (completeTransfer w s) :=
  exec_xfer_iff.mpr ⟨hidle, hstart, rfl⟩

end

/-- Settles O17: an armed link has no interrupt pending, so `START` alone decides. -/
theorem transferEnabledIffArmed : Obligations.TransferEnabledIffArmed := by
  intro s w hunarmed
  refine ⟨⟨fun ⟨t, h⟩ => ?started, fun hstart => ?enabled⟩, exec_xfer_of_pending w⟩
  case started =>
    obtain ⟨-, hstart, -⟩ := exec_xfer_iff.mp h
    exact hstart
  case enabled =>
    have hidle : s.irqPending = false := by
      rw [← Bool.not_eq_true]
      intro hpending
      simp [hunarmed hpending] at hstart
    exact ⟨_, exec_xfer_of_armed w hidle hstart⟩

/-- Settles O9: the enabled transfer is `completeTransfer`, and the mask it clears `START` with has every
other bit set. -/
theorem transferExchangesWords : Obligations.TransferExchangesWords :=
  fun s w hidle => ⟨exec_xfer_of_armed w hidle, startFlag_withoutStart s.siocnt,
    fun _ hn => getLsbD_withoutStart s.siocnt hn, exec_xfer_of_unarmed w hidle⟩

end Sys2Proof.Machine
end

section
/-! Where the words that are sent come from (O42): each result of a completed step keeps
`State.TxAccounted`, because the log of violations only grows and the word a violation leaves waiting in
`SIODATA` is the word it logs. -/

namespace Sys2Proof.Machine

/-- An account of a word outlives what is logged later. -/
theorem Accounted.append {first w : Word} {log : List Violation} (h : Accounted first log w)
    (later : List Violation) : Accounted first (log ++ later) w := by
  rcases h with hfirst | hconstant | hcommand | ⟨v, hv, hword⟩
  · exact .inl hfirst
  · exact .inr (.inl hconstant)
  · exact .inr (.inr (.inl hcommand))
  · exact .inr (.inr (.inr ⟨v, List.mem_append_left later hv, hword⟩))

/-! ### The results of the operations -/

theorem hostEffect_commandValid {s : State} (op : HostOp) (hs : s.CommandValid) :
    (hostEffect op s).CommandValid := by
  rcases hostEffect_cmd op s with hkept | hvalid
  · rwa [State.CommandValid, hkept]
  · exact hvalid

section
variable {first : Word} {s : State}

/-- An accounted reply waits to be sent; it adds nothing to what was sent. -/
theorem State.TxAccounted.replied (hs : s.TxAccounted first) (p : PState) {v : Word}
    (hv : Accounted first s.violationLog v) : (s.replied p v).TxAccounted first := by
  obtain ⟨hcmd, hsent, -⟩ := hs
  exact ⟨hcmd, hsent, fun _ => hv⟩

/-- A violation leaves the received word in `SIODATA`, and logs it. -/
theorem State.TxAccounted.violated (hs : s.TxAccounted first) (c : ViolationClass) :
    (s.violated c).TxAccounted first := by
  obtain ⟨hcmd, hsent, -⟩ := hs
  exact ⟨hcmd, fun w hw => (hsent w hw).append _,
    fun _ => .inr (.inr (.inr ⟨⟨c, s.siodata⟩, by simp, rfl⟩))⟩

theorem State.TxAccounted.hostEffect (hs : s.TxAccounted first) (op : HostOp) :
    (hostEffect op s).TxAccounted first := by
  obtain ⟨hcmd, hsent, hwaits⟩ := hs
  exact ⟨hostEffect_commandValid op hcmd, by simpa using hsent, by simpa using hwaits⟩

/-- A transfer sends the word that was waiting to be sent; the word it receives waits to be decoded. -/
theorem State.TxAccounted.completeTransfer (hs : s.TxAccounted first) (hidle : s.irqPending = false)
    (w : Word) : (completeTransfer w s).TxAccounted first := by
  obtain ⟨hcmd, hsent, hwaits⟩ := hs
  refine ⟨hcmd, fun v hv => ?_, fun htaken => by simp at htaken⟩
  rw [completeTransfer_txLog, List.mem_append, List.mem_singleton] at hv
  rcases hv with hbefore | rfl
  · exact hsent v hbefore
  · exact hwaits hidle

end

/-! ### The obligation -/

/-- At arming nothing was sent, and what waits in `SIODATA` is its first content. -/
theorem armed_txAccounted (p : ResetParams) : (State.armed p).TxAccounted p.siodataReset :=
  ⟨armed_commandValid p, fun _ hw => absurd hw List.not_mem_nil, fun _ => .inl rfl⟩

/-- Every step keeps the account: a reply is a constant or the content of `CMD`, which is a command, and
taking a request or a draw touches nothing of it. -/
theorem step_keeps_txAccounted {first : Word} {s t : State} (hs : s.TxAccounted first)
    (h : step s = .next t) : t.TxAccounted first := by
  rcases step_next_kinds h with ⟨-, p, v, rfl, -, hv⟩ | ⟨-, c, rfl⟩ | ⟨-, l, n, op, rfl⟩ |
    ⟨hidle, -, l, n, w, rfl⟩
  · apply hs.replied p
    rcases hv with hconstant | ⟨-, rfl⟩
    · exact .inr (.inl hconstant)
    · exact .inr (.inr (.inl hs.1))
  · exact hs.violated c
  · exact State.TxAccounted.hostEffect (s := { s with inputs := l, draws := n }) hs op
  · exact State.TxAccounted.completeTransfer (s := { s with inputs := l, draws := n }) hs hidle w

/-- Settles O42. -/
theorem everySentWordIsAccountedFor : Obligations.EverySentWordIsAccountedFor :=
  ⟨armed_txAccounted, fun _ _ _ hs h => step_keeps_txAccounted hs h⟩

end Sys2Proof.Machine
end

section
/-! The stalled link (O44, O43): it arises from a violation, a trace without `UPDATE` changes at most `CMD`
in it, and the transfer after an `UPDATE` sends what the violation left in `SIODATA`. -/

namespace Sys2Proof.Machine

/-! ### What is enabled -/

/-- With no interrupt pending no interrupt operation is enabled (R171). -/
theorem exec_irq_of_idle {i : Instr} {p : PState} {s : State} (hi : (encode i).1 = .irq p)
    (hidle : s.irqPending = false) : exec i s = .refused .notSelected := by
  cases i with
  | hs0Ack | hs1Ack | hs2Ack | hs3Ack =>
    simp only [exec_hs0Ack, exec_hs1Ack, exec_hs2Ack, exec_hs3Ack, interruptStep_idle hidle]
  | hs0Nak chk | hs1Nak chk | hs2Nak chk | hs3Nak chk =>
    simp only [exec_hs0Nak, exec_hs1Nak, exec_hs2Nak, exec_hs3Nak, interruptStep_idle hidle]
  | hs0Rst chk keyf | hs1Rst chk keyf | hs2Rst chk keyf | hs3Rst chk keyf =>
    simp only [exec_hs0Rst, exec_hs1Rst, exec_hs2Rst, exec_hs3Rst, interruptStep_idle hidle]
  | mg1Ok | mg2Ok | mg3Ok | sdPoll =>
    simp only [exec_mg1Ok, exec_mg2Ok, exec_mg3Ok, exec_sdPoll, interruptStep_idle hidle]
  | mg1Rst lit | mg2Rst lit | mg3Rst lit | sdRst lit =>
    simp only [exec_mg1Rst, exec_mg2Rst, exec_mg3Rst, exec_sdRst, interruptStep_idle hidle]
  | setStart | setStop | setHardStop | update | xfer w => cases hi

/-! ### Without `UPDATE` -/

/-- Only `HOST` is enabled in a stalled state, so a line that runs there and is no `UPDATE` is a setter. -/
theorem traceStep_of_stalled {x : TraceStep} {s t : State} (hs : s.Stalled) (hx : x ≠ .host .update)
    (h : traceStep x s = .next t) : ∃ c, t = { s with cmd := c } := by
  obtain ⟨hidle, hstart⟩ := hs
  cases x with
  | host op =>
    obtain ⟨-, rfl⟩ := exec_hostInstr_iff.mp h
    exact ⟨hostWord op, hostEffect_of_setter (fun hop => hx (congrArg _ hop)) s⟩
  | xfer w => cases (exec_xfer_of_unarmed w hidle hstart).symm.trans h
  | irq =>
    have hslot := congrArg Prod.fst (encode_decodeIrq s.pstate s.siodata)
    cases (exec_irq_of_idle hslot hidle).symm.trans h

/-- A trace without `UPDATE` changes at most `CMD` in a stalled state. -/
theorem runTrace_of_stalled {l : List TraceStep} {s t : State} (hs : s.Stalled)
    (hl : .host .update ∉ l) (h : runTrace l s = .next t) : ∃ c, t = { s with cmd := c } := by
  induction l generalizing s with
  | nil =>
    cases h
    exact ⟨t.cmd, rfl⟩
  | cons x l ih =>
    obtain ⟨u, hfirst, hrest⟩ := runTrace_cons_next_iff.mp h
    obtain ⟨hx, hl⟩ := List.ne_and_not_mem_of_not_mem_cons hl
    obtain ⟨c, rfl⟩ := traceStep_of_stalled hs (Ne.symm hx) hfirst
    exact ih (s := { s with cmd := c }) hs hl hrest

/-! ### Where it arises and what lifts it -/

/-- A `*_RST` operation completes only on a pending interrupt. -/
theorem irqPending_before_exec_reset {i : Instr} {s t : State} (hi : i.isReset = true)
    (h : exec i s = .next t) : s.irqPending = true := by
  rcases exec_next_cases h with ⟨-, hp, -⟩ | ⟨-, hp, -⟩ | ⟨op, rfl, -⟩ | ⟨w, rfl, -⟩
  · exact hp
  · exact hp
  · simp at hi
  · cases hi

/-- A violation does not arm the link (R166), and a pending interrupt goes with an unarmed one. -/
theorem stalled_of_exec_reset {i : Instr} {s t : State} (hs : s.PendingUnarmed) (hi : i.isReset = true)
    (h : exec i s = .next t) : t.Stalled := by
  have hunarmed := hs (irqPending_before_exec_reset hi h)
  obtain ⟨c, rfl⟩ := exec_reset_next hi h
  exact ⟨rfl, hunarmed⟩

/-- Settles O44, clause by clause. -/
theorem stalledLinkWaitsForUpdate : Obligations.StalledLinkWaitsForUpdate := by
  refine ⟨fun s ⟨hidle, hstart⟩ => ⟨fun w => exec_xfer_of_unarmed w hidle hstart,
    fun i p hi => exec_irq_of_idle hi hidle, ?lifted⟩, fun l s t hs hl h => ?waits,
    fun i s t => stalled_of_exec_reset, fun p hstart => ⟨rfl, hstart⟩⟩
  case lifted =>
    exact ⟨_, exec_hostInstr_of_idle hidle .update, startFlag_withStart s.siocnt⟩
  case waits =>
    obtain ⟨c, rfl⟩ := runTrace_of_stalled hs hl h
    exact ⟨hs, rfl, rfl, rfl, rfl⟩

/-! ### The first transfer after a violation -/

/-- An `UPDATE` arms an idle link, so the transfer after it completes. -/
theorem runTrace_update_xfer {s : State} (hidle : s.irqPending = false) (w : Word) :
    runTrace [.host .update, .xfer w] s = .next (completeTransfer w (hostEffect .update s)) := by
  have hxfer : traceStep (.xfer w) (hostEffect .update s) =
      .next (completeTransfer w (hostEffect .update s)) :=
    exec_xfer_of_armed w hidle (startFlag_withStart s.siocnt)
  rw [runTrace_host_of_idle hidle, runTrace_cons_of_next hxfer, runTrace]

/-- Settles O43: the violation leaves the offending word in `SIODATA`, where `UPDATE` does not reach it. -/
theorem offendingWordIsEchoed : Obligations.OffendingWordIsEchoed := by
  intro s w hpending hreset
  obtain ⟨u, hirq⟩ := exec_decodeIrq_completes hpending
  obtain ⟨c, rfl⟩ := exec_reset_next hreset hirq
  refine ⟨completeTransfer w (hostEffect .update (s.violated c)), ?runs, rfl, rfl, rfl, rfl⟩
  rw [runTrace_cons_of_next (x := .irq) hirq, runTrace_update_xfer rfl]

end Sys2Proof.Machine
end

section
/-! The dispatch (O15, O16): the step is the operation that the fetched word decodes to, and whether an
interrupt is pending decides which agents are enabled. -/

namespace Sys2Proof.Machine

/-- A step that fetches a word performs the operation the word decodes to, in the state `fetch` left. -/
theorem step_of_fetch {s u : State} {slot : Slot} {w : Word} {i : Instr}
    (hf : fetch s = .word slot w u) (hd : decode slot w = .ok i) : step s = exec i u := by
  simp only [step, hf, hd]

/-- A `HOST` operation is its one write, under the enabling condition of the agent. -/
theorem exec_hostInstr (op : HostOp) (s : State) : exec (hostInstr op) s = hostStep (hostEffect op) s := by
  cases op with
  | setStart => exact exec_setStart s
  | setStop => exact exec_setStop s
  | setHardStop => exact exec_setHardStop s
  | update => exact exec_update s

/-- With an interrupt pending no `HOST` operation is enabled (R135, R171). -/
theorem exec_hostInstr_of_pending {s : State} (hpending : s.irqPending = true) (op : HostOp) :
    exec (hostInstr op) s = .refused .interruptPending := by
  rw [exec_hostInstr, hostStep, if_pos hpending]

/-- Settles O15: what is decoded is the received word while an interrupt is pending, and else the word of
the first request. -/
theorem stepRunsTheDecodedOperation : Obligations.StepRunsTheDecodedOperation :=
  ⟨fun _ _ hpending hd => step_of_fetch (fetch_pending hpending) hd,
    fun _ _ _ _ hidle hi hd => step_of_fetch (fetch_request hidle hi) hd,
    fun _ _ _ _ hidle hi hd => step_of_fetch (fetch_request hidle hi) hd⟩

/-- Settles O16: the operation selected on a pending interrupt always completes, because its row's
condition holds of the word that selected it. -/
theorem interruptExcludesOtherAgents : Obligations.InterruptExcludesOtherAgents := by
  refine fun s => ⟨fun hpending => ⟨exec_hostInstr_of_pending hpending,
    fun w => exec_xfer_of_pending w hpending, ?taken⟩, fun hidle => ⟨fun i p hi => exec_irq_of_idle hi hidle,
    fun op => ⟨_, exec_hostInstr_of_idle hidle op⟩, fun hstart w => ⟨_, exec_xfer_of_armed w hidle hstart⟩⟩⟩
  case taken =>
    obtain ⟨t, ht⟩ := exec_decodeIrq_completes hpending
    exact ⟨t, (step_pending hpending).trans ht, ht⟩

end Sys2Proof.Machine
end

section
/-! Protocol violations (O20, O21): which operations raise one, and which words do in each state. -/

namespace Sys2Proof.Machine

/-! ### Which operations raise one -/

/-- No operation other than the `*_RST` ones logs a violation (R165). -/
theorem exec_keeps_violationLog {i : Instr} {s t : State} (hi : i.isReset = false)
    (h : exec i s = .next t) : t.violationLog = s.violationLog := by
  rcases exec_next_cases h with ⟨-, -, p, v, rfl, -⟩ | ⟨hreset, -⟩ | ⟨op, -, -, rfl⟩ | ⟨w, -, -, -, rfl⟩
  · exact State.replied_violationLog s p v
  · cases hi.symm.trans hreset
  · exact hostEffect_violationLog op s
  · exact completeTransfer_violationLog w s

/-- Settles O20. -/
theorem onlyResetRowsRaiseViolations : Obligations.OnlyResetRowsRaiseViolations :=
  fun _ _ _ h => ⟨fun hi => ⟨irqPending_before_exec_reset hi h, exec_reset_next hi h⟩,
    fun hi => exec_keeps_violationLog hi h⟩

/-! ### Which words violate -/

section
variable {s : State} {p : PState} {w : Word}

/-- Where `STEP` does not reply to the waiting word, the step is the violation of the state. -/
theorem step_eq_violated (hs : s.Waiting p w) (h : stepFn p w s.cmd = (.hs0, none)) :
    step s = .next (s.violated (violationClass p)) := by
  rw [(interruptStepRefinesStepFunction s hs.1).1, irqWrapper_of_violation hs h]

/-- In `Handshake(k)` the step on a word whose low half is not the key is `V_KEY`. -/
theorem step_wrongKey (k : Fin 4) (hs : s.Waiting (handshakeState k) w) (h : low16 w ≠ key k) :
    step s = .next (s.violated .vKey) := by
  have hunanswered := stepFn_wrongKey k (high16 w) h s.cmd
  rw [high16_append_low16] at hunanswered
  rw [step_eq_violated hs hunanswered, violationClass_handshakeState]

end

/-- Settles O21: the words `STEP` does not reply to are those with a wrong key in a handshake state, and
every word but the expected one elsewhere; a violation does not write `SIOCNT`. -/
theorem violationCausesAndLabels : Obligations.ViolationCausesAndLabels := by
  intro s hpending
  have hwaiting : ∀ {p : PState}, s.pstate = p → s.Waiting p s.siodata := fun hp => ⟨hpending, hp, rfl⟩
  refine ⟨fun hp hkey => ?_, fun hp hkey => ?_, fun hp hkey => ?_, fun hp hkey => ?_, fun hp hword => ?_,
    fun hp hword => ?_, fun hp hword => ?_, fun hp hword => ?_, fun hunarmed _ => hunarmed hpending⟩
  · exact step_wrongKey 0 (hwaiting hp) hkey
  · exact step_wrongKey 1 (hwaiting hp) hkey
  · exact step_wrongKey 2 (hwaiting hp) hkey
  · exact step_wrongKey 3 (hwaiting hp) hkey
  · exact step_eq_violated (hwaiting hp) (if_neg hword)
  · exact step_eq_violated (hwaiting hp) (if_neg hword)
  · exact step_eq_violated (hwaiting hp) (if_neg hword)
  · exact step_eq_violated (hwaiting hp) (if_neg hword)

end Sys2Proof.Machine
end

section
/-! Reset and the endless run (O40, O47): at arming `CMD` holds the word of the parameter's command, and
from then on some agent is always enabled: the interrupt step where an interrupt is pending, else the
request the environment draws. -/

namespace Sys2Proof.Machine

/-- Settles O40: of the fields only `CMD` is computed, from the command the parameter names (R191). -/
theorem armingStateIsAsStated : Obligations.ArmingStateIsAsStated :=
  fun _ => ⟨rfl, rfl, rfl, rfl, rfl, congrArg commandWord, congrArg commandWord, congrArg commandWord⟩

section
variable {s : State}

/-- With an interrupt pending the interrupt step completes, and takes no request (R171). -/
theorem exists_step_pending (hpending : s.irqPending = true) :
    ∃ t, step s = .next t ∧ t.inputs = s.inputs := by
  obtain ⟨t, ht⟩ := exec_decodeIrq_completes hpending
  exact ⟨t, (step_pending hpending).trans ht, (exec_keeps_requests ht).1⟩

/-- With no interrupt pending and nothing requested the environment's draw completes: a transfer is drawn
only where `START` is set, and a `HOST` operation needs nothing more (R213). -/
theorem exists_step_drawn (hidle : s.irqPending = false) (hempty : s.inputs = []) :
    ∃ t, step s = .next t ∧ t.inputs = [] := by
  rcases fetch_drawn hidle hempty with ⟨hstart, hlink⟩ | ⟨op, hhost⟩
  · exact ⟨_, (step_of_fetch hlink rfl).trans (exec_xfer_of_armed _ hidle hstart), hempty⟩
  · exact ⟨_, (step_of_fetch hhost (decodeHost_hostWord op)).trans (exec_hostInstr_iff.mpr ⟨hidle, rfl⟩),
      (hostEffect_inputs op _).trans hempty⟩

/-- With nothing requested a step is always possible, and requests nothing. -/
theorem exists_step_of_inputs_nil (hempty : s.inputs = []) : ∃ t, step s = .next t ∧ t.inputs = [] := by
  cases hirq : s.irqPending with
  | true =>
    obtain ⟨t, hstep, hkept⟩ := exists_step_pending hirq
    exact ⟨t, hstep, hkept.trans hempty⟩
  | false => exact exists_step_drawn hirq hempty

end

/-- Settles O47, by induction on the number of steps. -/
theorem runNeverEnds : Obligations.RunNeverEnds := by
  intro n
  induction n with
  | zero => exact fun s hempty => ⟨s, rfl, hempty⟩
  | succ n ih =>
    intro s hempty
    obtain ⟨u, hstep, hu⟩ := exists_step_of_inputs_nil hempty
    obtain ⟨t, hrun, ht⟩ := ih u hu
    exact ⟨t, run_succ_next_iff.mpr ⟨u, hstep, hrun⟩, ht⟩

end Sys2Proof.Machine
end

section
/-! The values at the model's reset (O41), an instance of the arming state (O40). -/

namespace Sys2Proof.Machine

/-- Settles O41: the reset is the arming state (O40) whose three parameters are `C_STOP`, zero and zero. -/
theorem resetTakesSimulatorValues : Obligations.ResetTakesSimulatorValues := by
  obtain ⟨hpstate, hsiodata, hsiocnt, hirq, -, hstop, -, -⟩ :=
    armingStateIsAsStated ResetParams.simulator
  exact ⟨hpstate, hstop rfl, hsiodata, hsiocnt, hirq⟩

end Sys2Proof.Machine
end
